-- ==== Sys2Proof/Word.lean ====
section
/-!
DEFINITION. The words of MKC-SAS: the widths the spec names (R12, R22, R41, R65).
-/

namespace Sys2Proof

/-- `u8`: one byte of a frame (R12, R41). -/
abbrev Byte := BitVec 8

/-- `u4`: the sequence and checksum nibbles (R12, R55). -/
abbrev Nibble := BitVec 4

/-- An unsigned timestamp in timer ticks, `TS_WIDTH` = 64 bits (R6, R22). -/
abbrev Timestamp := BitVec 64

/-- The 64-bit view of an 8-byte frame, byte `i` in bits `8i+7 .. 8i` (R41). -/
abbrev FrameWord := BitVec 64

/-- The 8-bit command word of the host's command port (R65, R72). -/
abbrev CommandWord := BitVec 8

/-- The transport's `ErrorCode`. Its width `ERR_WIDTH` is a parameter (R9), so a code is held as the
natural number of its `ERR_WIDTH` bits: every code the block takes from the transport goes through
`errorCodeOf`, and `Cfg.fitsErrWidth` says that a number is such a code (log 9). -/
abbrev ErrorCode := Nat

end Sys2Proof
end

