-- ==== Sys2Proof/Syntax.lean ====
section
/-!
DEFINITION. The commands of MKC-SAS with their operands: one constructor for each row of
spec/opcode_table.json (R66), and the values those operands range over (R63, R41).
-/

namespace Sys2Proof

/-- A SignalSample (R63): the input of ENCODE and the output of a tick. The values are exact and
unbounded; the valid ranges are enforced by ENCODE's clamps, not by the domain. -/
structure SignalSample where
  /-- degrees -/
  angle : ℚ
  rate : ℚ
  status : ℤ
  sequence : ℤ
  deriving DecidableEq, Repr

/-- A WireFrame (R41): the bytes `b[0]` to `b[7]`, in the order the transport's `data` has them. -/
structure WireFrame where
  b0 : Byte
  b1 : Byte
  b2 : Byte
  b3 : Byte
  b4 : Byte
  b5 : Byte
  b6 : Byte
  b7 : Byte
  deriving DecidableEq, Repr

/-- The commands and internal steps of R66, each with the operands R68 gives it. -/
inductive Instr where
  /-- ENCODE (R82): pack a sample into a frame. -/
  | encode (sample : SignalSample)
  /-- DECODE (R85): unpack a frame. -/
  | decode (frame : WireFrame)
  /-- TICK (R95): evaluate the sequencer once. -/
  | tick
  /-- START (R116), with `run` from word bit 4 (R67). -/
  | start (run : Bool)
  /-- CANCEL (R119): request cooperative cancellation. -/
  | cancel
  /-- READ (R120) of a register number; the port carries it in a `u8`. -/
  | read (reg : Nat)
  /-- ITERATE (R121), internal: the top of one loop iteration. -/
  | iterate
  /-- SEND (R125), internal: hand the latched frame to the transport. -/
  | send
  /-- WAIT_EXPIRE (R129, R130), internal: leave BACKOFF or PACING. -/
  | waitExpire
  deriving DecidableEq, Repr

/-- The pseudo-command `INIT` (R74). -/
abbrev Instr.init : Instr := .start false

/-- The pseudo-command `RUN` (R74). -/
abbrev Instr.run : Instr := .start true

/-- Whether the row is an internal controller step (class C = 1, R66, R71). -/
def Instr.isInternal : Instr → Bool
  | .encode _ => false
  | .decode _ => false
  | .tick => false
  | .start _ => false
  | .cancel => false
  | .read _ => false
  | .iterate => true
  | .send => true
  | .waitExpire => true

end Sys2Proof
end

