-- ==== Sys2Proof/Config.lean ====
section
/-!
DEFINITION. The parameters of MKC-SAS (R6 to R9) as one record, their defaults, the OPEN ones as
constants with no body, and the free values of the model.
-/

namespace Sys2Proof

/-- `ROUND_TIES` (R7, R79): the tie rule of `round`. -/
inductive RoundTies where
  | even
  | away
  deriving DecidableEq, Repr

/-- `RATE_QUANT` (R7, R80): how the rational rate becomes the rate byte. -/
inductive RateQuant where
  | round
  | trunc
  deriving DecidableEq, Repr

/-- `SEQ_EMIT` (R7, R104): whether a sample carries the sequence value before or after its increment. -/
inductive SeqEmit where
  | pre
  | post
  deriving DecidableEq, Repr

/-- The configuration record `cfg` (R8) together with the parameters of R6, R7 and R9. A parameter
of the machine, fixed for the run: no step writes it (R35, R168). Angles are signed counts of 0.1°,
durations are timer ticks. -/
structure Cfg where
  left : BitVec 32
  right : BitVec 32
  straight : BitVec 32
  tTrans : BitVec 32
  tHold : BitVec 32
  canId : BitVec 29
  extended : Bool
  /-- `none` is the spec's `NONE`: no ceiling (R8, R123) -/
  maxFrames : Option (BitVec 64)
  pacing : BitVec 32
  backoff : BitVec 32
  /-- for the host's `open`; no step of the block reads it (R4, R8) -/
  channel : Nat
  /-- for the host's `start` of the transport; no step of the block reads it (R4, R8) -/
  bitrateIndex : Nat
  timerHz : Nat
  roundTies : RoundTies
  rateQuant : RateQuant
  seqEmit : SeqEmit
  busyCode : ErrorCode
  errWidth : Nat
  deriving DecidableEq, Repr

/-- The default of `BACKOFF`: `ceil(TIMER_HZ / 1000)` ticks (R8, R174). -/
def Config.defaultBackoff (timerHz : Nat) : Nat := (timerHz + 999) / 1000

/-! The parameters the spec leaves OPEN (R6, R8, R9) have no body: no proof can see a value (log 7). -/

opaque Config.left : BitVec 32
opaque Config.right : BitVec 32
opaque Config.straight : BitVec 32
opaque Config.tTrans : BitVec 32
opaque Config.tHold : BitVec 32
opaque Config.canId : BitVec 11
opaque Config.channel : Nat
opaque Config.bitrateIndex : Nat
/-- `TIMER_HZ` less 1, so that `TIMER_HZ` is positive; bounded so that the default `BACKOFF` fits its
32 bits (log 8). -/
opaque Config.timerHzLessOne : Fin 4294967295000
opaque Config.errWidth : Nat
opaque Config.busyCodeSeed : Nat

/-- The OPEN `TIMER_HZ` (R6): some positive integer. -/
def Config.timerHz : Nat := Config.timerHzLessOne.val + 1

/-- The OPEN `BUSY_CODE` (R9): some code of the OPEN width. -/
def Config.busyCode : ErrorCode := Config.busyCodeSeed % 2 ^ Config.errWidth

/-- The configuration the reset state carries: the spec's defaults, and for every OPEN parameter its
constant without a body. -/
def Config.supplied : Cfg where
  left := Config.left
  right := Config.right
  straight := Config.straight
  tTrans := Config.tTrans
  tHold := Config.tHold
  canId := Config.canId.setWidth 29
  extended := false
  maxFrames := none
  pacing := 0
  backoff := BitVec.ofNat 32 (Config.defaultBackoff Config.timerHz)
  channel := Config.channel
  bitrateIndex := Config.bitrateIndex
  timerHz := Config.timerHz
  roundTies := .even
  rateQuant := .round
  seqEmit := .pre
  busyCode := Config.busyCode
  errWidth := Config.errWidth

/-! Free values: nothing constrains them. Each is applied to the number of the turn that uses it. -/

/-- What a tick reads from an ENTRY_TIME that holds no value; R162 derives that no run does so (log 4). -/
opaque Config.unwrittenEntryTime : Nat → Timestamp
/-- What SEND reads from a FRAME_BUF that holds no value (R162, log 4). -/
opaque Config.unwrittenFrameBuf : Nat → FrameWord
/-- What WAIT_EXPIRE reads from a DEADLINE that holds no value (R162, log 4). -/
opaque Config.unwrittenDeadline : Nat → Timestamp
/-- The DEADLINE of a wait that would end at or past 2^64; the spec describes no value (R152, log 5). -/
opaque Config.deadlinePastEnd : Nat → Timestamp
/-- The SENT_COUNT after a success counted past 2^64 − 1; the spec describes no value (R27, log 6). -/
opaque Config.sentCountPastEnd : Nat → BitVec 64

end Sys2Proof
end

