-- ==== Sys2Proof/WellFormed.lean ====
section
/-!
DEFINITION. Well-formedness of commands and of the configuration: the ranges the spec gives that the
types do not already hold.
-/

namespace Sys2Proof

/-- An instruction whose operands the port can carry: READ's register number is a `u8` (R68). Every
other operand's range is its type's. -/
def Instr.wellFormed : Instr → Bool
  | .encode _ => true
  | .decode _ => true
  | .tick => true
  | .start _ => true
  | .cancel => true
  | .read reg => decide (reg < 256)
  | .iterate => true
  | .send => true
  | .waitExpire => true

/-- `TIMER_HZ` is a positive integer (R6). -/
def Cfg.timerHzPositive (c : Cfg) : Bool := decide (0 < c.timerHz)

/-- `CAN_ID` is 11 bits wide, or 29 bits when `EXTENDED` (R8; log 16). -/
def Cfg.canIdFits (c : Cfg) : Bool := c.extended || decide (c.canId.toNat < 2 ^ 11)

/-- An error code fits `ERR_WIDTH` bits (R9). -/
def Cfg.fitsErrWidth (c : Cfg) (e : ErrorCode) : Bool := decide (e < 2 ^ c.errWidth)

/-- The legal configurations of R6, R8 and R9. -/
def Cfg.wellFormed (c : Cfg) : Bool :=
  c.timerHzPositive && c.canIdFits && c.fitsErrWidth c.busyCode

end Sys2Proof
end

