-- ==== Sys2Proof/Decode.lean ====
section
/-!
DEFINITION. The command port's encoding (R65 to R72): the fields of a command word, a total decoder
that rejects by name, the encoder written from the same tables, and the opcode table's rows.
-/

namespace Sys2Proof

/-- One command on the port (R65): the 8-bit word and the operand bundle beside it (R68). The bundle is
one lane for each kind of operand; the decoder reads the lane its operation names (log 13). -/
structure PortWord where
  word : CommandWord
  sample : SignalSample
  frame : WireFrame
  reg : BitVec 8
  deriving DecidableEq, Repr

/-- The sample of zeros, in an operand lane no operation reads. -/
def SignalSample.zero : SignalSample := ⟨0, 0, 0, 0⟩

/-- The frame of zeros, in an operand lane no operation reads. -/
def WireFrame.zero : WireFrame := ⟨0, 0, 0, 0, 0, 0, 0, 0⟩

/-- A word with every operand bit zero. -/
def PortWord.bare (w : CommandWord) : PortWord := ⟨w, .zero, .zero, 0⟩

/-- Why a word has no meaning; on the port each of them is answered ILLEGAL_COMMAND (R70, R71). -/
inductive DecodeError where
  /-- C = 0 and OP ∈ {0, 7 to F} (R70). -/
  | reservedOperation
  /-- M ≠ 000 in an operation other than START (R67, R70). -/
  | reservedModifier
  /-- START with M[2:1] ≠ 00 (R67, R70). -/
  | reservedStartModifier
  /-- C = 1 and OP none of R66's internal steps (R71; log 18). -/
  | reservedInternal
  deriving DecidableEq, Repr

namespace CommandWord

/-- Field C, bit 7 (R65): true for an internal controller step. -/
def classBit (w : CommandWord) : Bool := w.getLsbD 7

/-- Field M, bits 6:4 (R65). -/
def modifier (w : CommandWord) : BitVec 3 := w.extractLsb' 4 3

/-- Field OP, bits 3:0 (R65). -/
def operation (w : CommandWord) : BitVec 4 := w.extractLsb' 0 4

/-- START's operand `run`, word bit 4 (R67). -/
def runBit (w : CommandWord) : Bool := w.getLsbD 4

/-- `M[2:1]`, word bits 6:5 (R67). -/
def startReserved (w : CommandWord) : BitVec 2 := w.extractLsb' 5 2

/-- A command word from its three fields (R65). -/
def ofFields (c : BitVec 1) (m : BitVec 3) (op : BitVec 4) : CommandWord := c ++ m ++ op

end CommandWord

/-- An operation whose modifier must be 000 (R67, R70). -/
def plainOperation (w : CommandWord) (i : Instr) : Except DecodeError Instr :=
  if CommandWord.modifier w = 0 then .ok i else .error .reservedModifier

/-- START: M[0] is `run`, M[2:1] must be 00 (R67, R70). -/
def startOperation (w : CommandWord) : Except DecodeError Instr :=
  if CommandWord.startReserved w = 0 then .ok (.start (CommandWord.runBit w))
  else .error .reservedStartModifier

/-- The operation of a class and an operation code (R66), with its operands taken from the bundle. -/
def decodeOperation (c : Bool) (op : Nat) (p : PortWord) : Except DecodeError Instr :=
  match c, op with
  | false, 0x1 => plainOperation p.word (.encode p.sample)
  | false, 0x2 => plainOperation p.word (.decode p.frame)
  | false, 0x3 => plainOperation p.word .tick
  | false, 0x4 => startOperation p.word
  | false, 0x5 => plainOperation p.word .cancel
  | false, 0x6 => plainOperation p.word (.read p.reg.toNat)
  | false, _ => .error .reservedOperation
  | true, 0x1 => plainOperation p.word .iterate
  | true, 0x2 => plainOperation p.word .send
  | true, 0x3 => plainOperation p.word .waitExpire
  | true, _ => .error .reservedInternal

/-- The decoder (R65 to R67, R70, R71), total on every word and bundle. It reads the words of both
classes; that a class 1 word is never accepted on the port is the port's rule (`portCommand`). -/
def decode (p : PortWord) : Except DecodeError Instr :=
  decodeOperation (CommandWord.classBit p.word) (CommandWord.operation p.word).toNat p

/-- The command word of an instruction, from the fields of R66 and R67. -/
def encodeWord : Instr → CommandWord
  | .encode _ => CommandWord.ofFields 0 0 0x1
  | .decode _ => CommandWord.ofFields 0 0 0x2
  | .tick => CommandWord.ofFields 0 0 0x3
  | .start run => CommandWord.ofFields 0 (if run then 0b001 else 0b000) 0x4
  | .cancel => CommandWord.ofFields 0 0 0x5
  | .read _ => CommandWord.ofFields 0 0 0x6
  | .iterate => CommandWord.ofFields 1 0 0x1
  | .send => CommandWord.ofFields 1 0 0x2
  | .waitExpire => CommandWord.ofFields 1 0 0x3

/-- The encoder: the word and the operand bundle of an instruction (R68), zeros in the lanes it does
not use. -/
def encode (i : Instr) : PortWord :=
  match i with
  | .encode smp => { PortWord.bare (encodeWord i) with sample := smp }
  | .decode f => { PortWord.bare (encodeWord i) with frame := f }
  | .tick => PortWord.bare (encodeWord i)
  | .start _ => PortWord.bare (encodeWord i)
  | .cancel => PortWord.bare (encodeWord i)
  | .read reg => { PortWord.bare (encodeWord i) with reg := BitVec.ofNat 8 reg }
  | .iterate => PortWord.bare (encodeWord i)
  | .send => PortWord.bare (encodeWord i)
  | .waitExpire => PortWord.bare (encodeWord i)

/-- The mnemonic of an instruction, as spec/opcode_table.json spells it. -/
def mnemonicOf : Instr → String
  | .encode _ => "ENCODE"
  | .decode _ => "DECODE"
  | .tick => "TICK"
  | .start _ => "START"
  | .cancel => "CANCEL"
  | .read _ => "READ"
  | .iterate => "ITERATE"
  | .send => "SEND"
  | .waitExpire => "WAIT_EXPIRE"

/-- One row of spec/opcode_table.json: a word belongs to it when its bits under `mask` are `pattern`. -/
structure OpcodeRow where
  mnemonic : String
  pattern : CommandWord
  mask : CommandWord
  deriving DecidableEq, Repr

/-- Whether a word belongs to a row of the table. -/
def OpcodeRow.matchesWord (r : OpcodeRow) (w : CommandWord) : Bool := w &&& r.mask == r.pattern

/-- The rows of spec/opcode_table.json, in its order. -/
def opcodeTable : List OpcodeRow :=
  [⟨"ENCODE", 0x01, 0xFF⟩, ⟨"DECODE", 0x02, 0xFF⟩, ⟨"TICK", 0x03, 0xFF⟩, ⟨"START", 0x04, 0xEF⟩,
   ⟨"CANCEL", 0x05, 0xFF⟩, ⟨"READ", 0x06, 0xFF⟩, ⟨"ITERATE", 0x81, 0xFF⟩, ⟨"SEND", 0x82, 0xFF⟩,
   ⟨"WAIT_EXPIRE", 0x83, 0xFF⟩]

/-- The instruction the decoder reads from a word given as a number of `nbits` bits, with every operand
bit zero. A command word is exactly 8 bits (R72): a larger number is no command word. -/
def decodeTableWord (nbits w : Nat) : Option Instr :=
  if w % 2 ^ nbits < 256 then
    match decode (PortWord.bare (BitVec.ofNat 8 (w % 2 ^ nbits))) with
    | .ok i => some i
    | .error _ => none
  else none

end Sys2Proof
end

