-- ==== Sys2Proof/Machine/State.lean ====
section
/-!
DEFINITION. The state of MKC-SAS: its registers (10_state.md R20 to R33), the configuration it runs
under (R35), its observable output (R69, R135), and the inputs its agents have still to supply
(R54, R137, R152).
-/

namespace Sys2Proof.Machine

/-- `PHASE` (R21): the current pattern phase. -/
inductive Phase where
  | steeringLeft
  | steeringRight
  deriving DecidableEq, Repr

/-- `CTRL` (R26): the controller's state. The value 7 is never written (log 14). -/
inductive Ctrl where
  | idle
  | manual
  | ready
  | sending
  | backoff
  | pacing
  | done
  deriving DecidableEq, Repr

/-- `TERM_REASON` (R31): why the run ended. -/
inductive TermReason where
  | none
  | countReached
  | cancelled
  | fatal
  deriving DecidableEq, Repr

/-- The sequencer's four registers (41_sequencer.md; R21 to R24). `none` in a register is the spec's
own state "holds no value" (R15, R38). -/
structure SeqState where
  phase : Phase
  entryTime : Option Timestamp
  seq : BitVec 4
  initial : Bool
  deriving DecidableEq, Repr

/-- All the registers of the block, "and nothing else" (R20): the sequencer's and those of the
controller and the session (R26 to R33). -/
structure Regs extends SeqState where
  ctrl : Ctrl
  sentCount : BitVec 64
  sessionStart : Option Timestamp
  frameBuf : Option FrameWord
  deadline : Option Timestamp
  termReason : TermReason
  /-- a code of `ERR_WIDTH` bits (R32): `State.CodesFit` is kept by every step (log 9) -/
  termCode : Option ErrorCode
  cancel : Bool
  deriving DecidableEq, Repr

/-- What the transport's `send` returns: `Result<(), ErrorCode>` (R125, R136). -/
inductive SendResult where
  | ok
  /-- an error, by a number that stands for the code of its `ERR_WIDTH` bits (`errorCodeOf`, log 9) -/
  | err (number : Nat)
  deriving DecidableEq, Repr

/-- The classification of a `send`'s result (R137). -/
inductive SendAnswer where
  | ok
  | busy
  | fatal (code : ErrorCode)
  deriving DecidableEq, Repr

/-- One event of the history (R135): a call of `send`, its four arguments, when, and the answer. -/
structure SendEvent where
  now : Timestamp
  canId : BitVec 29
  data : WireFrame
  extended : Bool
  remote : Bool
  answer : SendAnswer
  deriving DecidableEq, Repr

/-- A DecodedSample (R64): the output of DECODE. -/
structure DecodedSample where
  raw : ℤ
  angle : ℚ
  rate : Byte
  status : Byte
  sequence : Nibble
  checksum : Nibble
  checksumCalc : Nibble
  csOk : Bool
  rsvNz : Bool
  deriving DecidableEq, Repr

/-- The payload of a response (R68). -/
inductive Payload where
  | none
  | frame (f : WireFrame)
  | decoded (d : DecodedSample)
  | sample (s : SignalSample)
  /-- the value READ returns, as the unsigned number the register holds (R36; log 17) -/
  | value (v : Nat)
  deriving DecidableEq, Repr

/-- The command errors of R141. -/
inductive CommandError where
  | illegalCommand
  | rejectedState
  | illegalRegister
  | unwritten
  deriving DecidableEq, Repr

/-- The response of a host command (R69): a payload is present only when the code is OK. -/
inductive Response where
  | ok (p : Payload)
  | error (e : CommandError)
  deriving DecidableEq, Repr

/-- What the last step did, by R15's kinds of outcome (log 11). A refused word is a response too:
ILLEGAL_COMMAND (R15 (d)). -/
inductive StepOutcome where
  /-- No step yet: after reset. -/
  | none
  /-- A host command was answered (R15 (a), (b), (d)). -/
  | response (r : Response)
  /-- A controller step took place (R15 (a)). -/
  | moved
  /-- The controller had its turn and no step of its was enabled (R15 (c)). -/
  | stuck
  deriving DecidableEq, Repr

/-- One turn of one agent (R54): who acts next, and what its environment supplies for that step. -/
inductive Slot where
  /-- The host presents a command on the port; `now` is the timer's draw (R65, R152). -/
  | host (now : Timestamp) (port : PortWord)
  /-- The controller may act; `now` is the timer's draw, `result` the transport's (R137, R152). -/
  | controller (now : Timestamp) (result : SendResult)
  /-- The reset signal (R160). -/
  | reset
  deriving DecidableEq, Repr

/-- The state of the machine. -/
structure State where
  /-- the configuration (R8, R35): no step writes it -/
  cfg : Cfg
  /-- the registers (R20) -/
  regs : Regs
  /-- the SEND events so far, oldest first (R135) -/
  history : List SendEvent
  /-- the outcome of the last step (R15, R69) -/
  outcome : StepOutcome
  /-- the timer's draw for the present step (R14, R152) -/
  now : Timestamp
  /-- the transport's draw for the present step (R137) -/
  sendResult : SendResult
  /-- the turns still to come (R54) -/
  schedule : List Slot
  /-- how many turns have been taken: the index of the free values -/
  turn : Nat
  deriving DecidableEq, Repr

/-- The reasons the machine stops with a fault. MKC-SAS has none: command errors are responses (R140),
a fatal transport error ends the run in the state DONE (R128), and clock and range anomalies are never
raised (R142, R145). Nobody raises one; safe. -/
inductive Fault where
  deriving DecidableEq, Repr

/-- The reasons the model refuses an instruction. -/
inductive Refusal where
  /-- Raised by `exec` for an instruction that has no meaning yet; safe. No arm raises it now. -/
  | notModelled (mnemonic : String)
  deriving DecidableEq, Repr

/-- The reset values of R38 and R160. -/
def Regs.reset : Regs where
  phase := .steeringLeft
  entryTime := none
  seq := 0
  initial := true
  ctrl := .idle
  sentCount := 0
  sessionStart := none
  frameBuf := none
  deadline := none
  termReason := .none
  termCode := none
  cancel := false

/-- The machine right after reset: the registers of R38 and R160, no SEND yet, no agent's turn pending,
under the configuration the host supplied (log 7). The draws and the turn count are the model's own
(log 12). -/
def State.reset : State where
  cfg := Config.supplied
  regs := Regs.reset
  history := []
  outcome := .none
  now := 0
  sendResult := .ok
  schedule := []
  turn := 0

/-! ### The single-field writes of the state -/

/-- Write the registers. -/
def State.setRegs (s : State) (r : Regs) : State := { s with regs := r }

/-- Record what the step did. -/
def State.setOutcome (s : State) (o : StepOutcome) : State := { s with outcome := o }

/-- Append one event to the history (R135). -/
def State.addEvent (s : State) (e : SendEvent) : State := { s with history := s.history ++ [e] }

/-- Take the turn at the head of the schedule: what is left, and one more turn counted. -/
def State.dropTurn (s : State) (rest : List Slot) : State :=
  { s with schedule := rest, turn := s.turn + 1 }

/-- Take the timer's draw for this step (R152). -/
def State.setNow (s : State) (t : Timestamp) : State := { s with now := t }

/-- Take the transport's draw for this step (R137). -/
def State.setSendResult (s : State) (r : SendResult) : State := { s with sendResult := r }

end Sys2Proof.Machine
end

