-- ==== Sys2Proof/Machine/Operands.lean ====
section
/-!
DEFINITION. The operand conversions the spec's rules share: `clamp` and `round` (R13, R79), `quant`
(R80), the frame word of a frame (R41), and the numbers READ gives for coded registers (R21, R26, R31).
-/

namespace Sys2Proof.Machine

/-- `clamp(v, lo, hi)` on rationals (R13). -/
def clampRat (v lo hi : ℚ) : ℚ := if v < lo then lo else if hi < v then hi else v

/-- `clamp(v, lo, hi)` on integers (R13). -/
def clampInt (v lo hi : ℤ) : ℤ := if v < lo then lo else if hi < v then hi else v

/-- The tie of `round` at `x` with floor `n` (R79, the two lines with f = 1/2). -/
def roundTie (ties : RoundTies) (x : ℚ) (n : ℤ) : ℤ :=
  match ties with
  | .even => if n % 2 = 0 then n else n + 1
  | .away => if 0 < x then n + 1 else n

/-- `round(x)` (R79). -/
def roundRat (ties : RoundTies) (x : ℚ) : ℤ :=
  if x - x.floor < 1 / 2 then x.floor
  else if 1 / 2 < x - x.floor then x.floor + 1
  else roundTie ties x x.floor

/-- `quant(r)` (R80). -/
def quantRat (c : Cfg) (r : ℚ) : ℤ :=
  match c.rateQuant with
  | .round => roundRat c.roundTies r
  | .trunc => r.floor

/-- The angle clamp (R76). -/
def clampAngle (a : ℚ) : ℚ := clampRat a (-32768 / 10) (32767 / 10)

/-- The rate clamp (R77). -/
def clampRate (r : ℚ) : ℚ := clampRat r 0 255

/-- The status clamp (R78). -/
def clampStatus (st : ℤ) : ℤ := clampInt st 0 255

/-- The sequence clamp (R78): clamped, not reduced modulo 16. -/
def clampSequence (q : ℤ) : ℤ := clampInt q 0 15

/-- The raw angle of a sample's angle: `round(a * 10)` of the clamped angle (R83). -/
def rawAngle (c : Cfg) (angle : ℚ) : ℤ := roundRat c.roundTies (clampAngle angle * 10)

/-- The rate byte's number: `quant` of the clamped rate (R80). -/
def rateNumber (c : Cfg) (rate : ℚ) : ℤ := quantRat c (clampRate rate)

/-- `u`: a raw angle as 16-bit two's complement (R56). -/
def rawWord (raw : ℤ) : BitVec 16 := BitVec.ofInt 16 raw

/-- `b[0]` of the angle field: bits 7:0 (R42, R56). -/
def angleLow (u : BitVec 16) : Byte := u.extractLsb' 0 8

/-- `b[1]` of the angle field: bits 15:8 (R42, R56). -/
def angleHigh (u : BitVec 16) : Byte := u.extractLsb' 8 8

/-- `sext_16(b[0] | (b[1] << 8))` (R13, R85). -/
def signedRaw (b0 b1 : Byte) : ℤ := (b1 ++ b0).toInt

/-- The frame word of a frame (R41). -/
def frameWord (f : WireFrame) : FrameWord :=
  f.b7 ++ f.b6 ++ f.b5 ++ f.b4 ++ f.b3 ++ f.b2 ++ f.b1 ++ f.b0

/-- The frame of a frame word: `b[i] = F[8i+7 : 8i]` (R41). -/
def frameOfWord (w : FrameWord) : WireFrame where
  b0 := w.extractLsb' 0 8
  b1 := w.extractLsb' 8 8
  b2 := w.extractLsb' 16 8
  b3 := w.extractLsb' 24 8
  b4 := w.extractLsb' 32 8
  b5 := w.extractLsb' 40 8
  b6 := w.extractLsb' 48 8
  b7 := w.extractLsb' 56 8

/-- The encoding of PHASE (R21). -/
def phaseNumber : Phase → Nat
  | .steeringLeft => 0
  | .steeringRight => 1

/-- The encoding of CTRL (R26). -/
def ctrlNumber : Ctrl → Nat
  | .idle => 0
  | .manual => 1
  | .ready => 2
  | .sending => 3
  | .backoff => 4
  | .pacing => 5
  | .done => 6

/-- The encoding of TERM_REASON (R31). -/
def termReasonNumber : TermReason → Nat
  | .none => 0
  | .countReached => 1
  | .cancelled => 2
  | .fatal => 3

/-- The number of a response code (R69, R141). -/
def responseCode : Response → Nat
  | .ok _ => 0
  | .error .illegalCommand => 1
  | .error .rejectedState => 2
  | .error .illegalRegister => 3
  | .error .unwritten => 4

/-- The `ErrorCode` a number stands for: its `ERR_WIDTH` bits (R9, R32; log 9). A number of that width is
its own code, unchanged. -/
def errorCodeOf (c : Cfg) (n : Nat) : ErrorCode := n % 2 ^ c.errWidth

/-- The classification of a `send`'s result (R137): `BUSY_CODE` is busy, every other error fatal. Both are
codes of `ERR_WIDTH` bits (R9). -/
def classify (c : Cfg) : SendResult → SendAnswer
  | .ok => .ok
  | .err n =>
    if errorCodeOf c n = errorCodeOf c c.busyCode then .busy else .fatal (errorCodeOf c n)

end Sys2Proof.Machine
end

