-- ==== Sys2Proof/Machine/Flags.lean ====
section
/-!
DEFINITION. The block has no condition codes (R34). Its computed Booleans are the outputs CS_OK and
RSV_NZ of DECODE, which rest on the checksum CHK.
-/

namespace Sys2Proof.Machine

/-- `CHK` of four bytes: `(b[0] ^ b[1] ^ b[2] ^ b[3]) & 0xF` (R59, R81). -/
def checksumOf (b0 b1 b2 b3 : Byte) : Nibble := (b0 ^^^ b1 ^^^ b2 ^^^ b3).extractLsb' 0 4

/-- `CHK(b)` of a frame (R81). -/
def chk (f : WireFrame) : Nibble := checksumOf f.b0 f.b1 f.b2 f.b3

/-- The stored checksum nibble `b[4][3:0]` (R43, R55). -/
def storedChecksum (f : WireFrame) : Nibble := f.b4.extractLsb' 0 4

/-- The sequence nibble `b[4][7:4]` (R43, R60). -/
def storedSequence (f : WireFrame) : Nibble := f.b4.extractLsb' 4 4

/-- `CS_OK` (R86): the stored nibble equals the recomputed one. -/
def csOk (f : WireFrame) : Bool := storedChecksum f == chk f

/-- `RSV_NZ` (R87): a reserved byte is nonzero. -/
def rsvNz (f : WireFrame) : Bool := f.b5 ||| f.b6 ||| f.b7 != 0

/-- A frame is complete and well-formed (R62): reserved bytes zero, checksum right. -/
def frameWellFormed (f : WireFrame) : Bool := csOk f && !rsvNz f

end Sys2Proof.Machine
end

