-- ==== Sys2Proof/Machine/Ops.lean ====
section
/-!
DEFINITION. The operations the meanings share: answering and raising (R14, R140), the outcomes of a
controller's turn (R15), the reset signal (R160), reading a register (R120), the exact time and count
sums (R153), the end of a run and the fatal abort (R122, R123, R128, R149), and the fetch of the step
that acts next (R54, R71, R115).
-/

namespace Sys2Proof.Machine

/-! ### Outcomes -/

/-- `respond(OK, payload)` (R14, R69). -/
def respond (p : Payload) (s : State) : State := s.setOutcome (.response (.ok p))

/-- `raise E` (R14, R140): the response carries the error, and every register keeps its value. -/
def raise (e : CommandError) (s : State) : State := s.setOutcome (.response (.error e))

/-- A controller step took place (R15 (a)). -/
def moved (s : State) : State := s.setOutcome .moved

/-- The controller's turn came and no step of its is enabled (R15 (c), R156): it does nothing (log 3). -/
def stuck (s : State) : State := s.setOutcome .stuck

/-- The reset signal (R160, R161): every register at its reset value. The transport is not called, and
the history, which is the observer's record, stays (log 10). -/
def resetSignal (s : State) : State := (s.setRegs Regs.reset).setOutcome .none

/-! ### Registers -/

/-- The number in a register that may hold no value (R15, R120). -/
def valueOrUnwritten (v : Option Nat) : Except CommandError Nat :=
  match v with
  | some n => .ok n
  | none => .error .unwritten

/-- A one-bit register's number. -/
def bitNumber (b : Bool) : Nat := if b then 1 else 0

/-- The READ register map (R36): the value of a register by its number, ILLEGAL_REGISTER for the
reserved numbers, UNWRITTEN for a register that holds no value (R120). -/
def readRegister (r : Regs) (reg : Nat) : Except CommandError Nat :=
  match reg with
  | 0 => .ok (ctrlNumber r.ctrl)
  | 1 => .ok (phaseNumber r.phase)
  | 2 => .ok (bitNumber r.initial)
  | 3 => .ok r.seq.toNat
  | 4 => valueOrUnwritten (r.entryTime.map BitVec.toNat)
  | 5 => valueOrUnwritten (r.sessionStart.map BitVec.toNat)
  | 6 => .ok r.sentCount.toNat
  | 7 => valueOrUnwritten (r.deadline.map BitVec.toNat)
  | 8 => valueOrUnwritten (r.frameBuf.map BitVec.toNat)
  | 9 => .ok (termReasonNumber r.termReason)
  | 10 => valueOrUnwritten r.termCode
  | 11 => .ok (bitNumber r.cancel)
  | _ => .error .illegalRegister

/-- ENTRY_TIME as a tick reads it (R97); the free value where it holds none (R162, log 4). -/
def entryTimeRead (s : State) : Timestamp :=
  s.regs.entryTime.getD (Config.unwrittenEntryTime s.turn)

/-- FRAME_BUF as SEND reads it (R125); the free value where it holds none (R162, log 4). -/
def frameBufRead (s : State) : FrameWord :=
  s.regs.frameBuf.getD (Config.unwrittenFrameBuf s.turn)

/-- DEADLINE as WAIT_EXPIRE reads it (R129, R130); the free value where it holds none (R162, log 4). -/
def deadlineRead (s : State) : Timestamp :=
  s.regs.deadline.getD (Config.unwrittenDeadline s.turn)

/-! ### Time and count -/

/-- `now + wait`, exact (R153). A DEADLINE that would reach 2^64 is not described (R152): the free
value (log 5). -/
def deadlineAfter (s : State) (wait : BitVec 32) : Timestamp :=
  if s.now.toNat + wait.toNat < 2 ^ 64 then BitVec.ofNat 64 (s.now.toNat + wait.toNat)
  else Config.deadlinePastEnd s.turn

/-- `SENT_COUNT + 1` (R126). A count past 2^64 − 1 is not described (R27): the free value (log 6). -/
def sentCountAfter (s : State) : BitVec 64 :=
  if s.regs.sentCount.toNat + 1 < 2 ^ 64 then s.regs.sentCount + 1
  else Config.sentCountPastEnd s.turn

/-- The ceiling check (R123): SENT_COUNT has reached MAX_FRAMES; `NONE` is never reached. -/
def ceilingReached (c : Cfg) (sent : BitVec 64) : Bool :=
  match c.maxFrames with
  | none => false
  | some m => decide (m.toNat ≤ sent.toNat)

/-- A run is in progress (R118). -/
def inRun : Ctrl → Bool
  | .idle => false
  | .manual => false
  | .ready => true
  | .sending => true
  | .backoff => true
  | .pacing => true
  | .done => false

/-! ### Register writes of a session -/

/-- What START writes (R116); FRAME_BUF and DEADLINE are not touched. -/
def startSession (run : Bool) (now : Timestamp) (r : Regs) : Regs :=
  { r with
    phase := .steeringLeft
    initial := true
    seq := 0
    entryTime := some now
    sessionStart := some now
    sentCount := 0
    cancel := false
    termReason := .none
    termCode := none
    ctrl := if run then .ready else .manual }

/-- The end of a run by cancellation or by the ceiling (R122, R123). -/
def endRun (reason : TermReason) (r : Regs) : Regs :=
  { r with ctrl := .done, termReason := reason }

/-- The fatal abort (R128, R149), the block's only trap-like event: it writes TERM_REASON, TERM_CODE
and CTRL, and there is no return from it (R150). -/
def fatalAbort (code : ErrorCode) (r : Regs) : Regs :=
  { endRun .fatal r with termCode := some code }

/-- Commit the sequencer's next state (R105). -/
def commitTick (st : SeqState) (r : Regs) : Regs := { r with toSeqState := st }

/-- Latch a frame and go to SENDING (R124). -/
def latchFrame (w : FrameWord) (r : Regs) : Regs := { r with frameBuf := some w, ctrl := .sending }

/-- Enter a wait (R126, R127): DEADLINE and the waiting state. -/
def enterWait (c : Ctrl) (t : Timestamp) (r : Regs) : Regs := { r with deadline := some t, ctrl := c }

/-- CTRL alone changes. -/
def setCtrl (c : Ctrl) (r : Regs) : Regs := { r with ctrl := c }

/-- SENT_COUNT alone changes (R126). -/
def setSentCount (n : BitVec 64) (r : Regs) : Regs := { r with sentCount := n }

/-- CANCEL is set (R119). -/
def setCancel (r : Regs) : Regs := { r with cancel := true }

/-! ### Fetch: which step acts -/

/-- The command a port word names, if the port accepts it: reserved words and every class 1 word are
refused (R70, R71). -/
def portCommand (p : PortWord) : Option Instr :=
  if CommandWord.classBit p.word then none
  else
    match decode p with
    | .ok i => some i
    | .error _ => none

/-- The internal step CTRL selects (R26, R115): the controller's whole control flow (R138). -/
def controllerStep : Ctrl → Option Instr
  | .idle => none
  | .manual => none
  | .ready => some .iterate
  | .sending => some .send
  | .backoff => some .waitExpire
  | .pacing => some .waitExpire
  | .done => none

/-! ### Placing an instruction where it is fetched next (log 2) -/

/-- A register that is read by the placed step and holds no value is given one. -/
def someOr (v : Option (BitVec 64)) : Option (BitVec 64) := some (v.getD 0)

/-- The state in which the controller's next turn is ITERATE (R121). -/
def placeIterate (s : State) : State :=
  { s with
    regs := { s.regs with ctrl := .ready, entryTime := someOr s.regs.entryTime }
    schedule := .controller s.now .ok :: s.schedule }

/-- The state in which the controller's next turn is SEND (R125). -/
def placeSend (s : State) : State :=
  { s with
    regs := { s.regs with ctrl := .sending, frameBuf := someOr s.regs.frameBuf }
    schedule := .controller s.now .ok :: s.schedule }

/-- The waiting state a placed WAIT_EXPIRE leaves: PACING stays, any other becomes BACKOFF. -/
def waitingCtrl : Ctrl → Ctrl
  | .pacing => .pacing
  | .idle => .backoff
  | .manual => .backoff
  | .ready => .backoff
  | .sending => .backoff
  | .backoff => .backoff
  | .done => .backoff

/-- The state in which the controller's next turn is WAIT_EXPIRE, its deadline come (R129, R130). -/
def placeWaitExpire (s : State) : State :=
  { s with
    regs := { s.regs with ctrl := waitingCtrl s.regs.ctrl, deadline := someOr s.regs.deadline }
    schedule := .controller (s.regs.deadline.getD 0) .ok :: s.schedule }

/-- The state in which the host's next turn presents a word with every operand bit zero. -/
def placeHost (w : CommandWord) (s : State) : State :=
  { s with schedule := .host s.now (PortWord.bare w) :: s.schedule }

end Sys2Proof.Machine
end

