-- ==== Sys2Proof/Machine/Codec.lean ====
section
/-!
DEFINITION. The frame codec (40_codec.md): ENCODE and DECODE, pure and total (R75).
-/

namespace Sys2Proof.Machine

/-- A frame from the numbers of its fields; byte 4 is `(q << 4) | CHK`, the reserved bytes are zero
(R61, R82, R84). -/
def packFrame (u : BitVec 16) (rate status : Byte) (seq : Nibble) : WireFrame where
  b0 := angleLow u
  b1 := angleHigh u
  b2 := rate
  b3 := status
  b4 := seq ++ checksumOf (angleLow u) (angleHigh u) rate status
  b5 := 0
  b6 := 0
  b7 := 0

/-- `Encode(s)` (R82). -/
def encodeFrame (c : Cfg) (smp : SignalSample) : WireFrame :=
  packFrame (rawWord (rawAngle c smp.angle)) (BitVec.ofInt 8 (rateNumber c smp.rate))
    (BitVec.ofInt 8 (clampStatus smp.status)) (BitVec.ofInt 4 (clampSequence smp.sequence))

/-- `Decode(b)` (R85). -/
def decodeFrame (f : WireFrame) : DecodedSample where
  raw := signedRaw f.b0 f.b1
  angle := (signedRaw f.b0 f.b1 : ℚ) / 10
  rate := f.b2
  status := f.b3
  sequence := storedSequence f
  checksum := storedChecksum f
  checksumCalc := chk f
  csOk := csOk f
  rsvNz := rsvNz f

/-- ENCODE (R82). -/
def execEncode (smp : SignalSample) (s : State) : Host.Outcome State Fault Refusal :=
  .next (respond (.frame (encodeFrame s.cfg smp)) s)

/-- DECODE (R85). -/
def execDecode (f : WireFrame) (s : State) : Host.Outcome State Fault Refusal :=
  .next (respond (.decoded (decodeFrame f)) s)

end Sys2Proof.Machine
end

