-- ==== Sys2Proof/Machine/Sequencer.lean ====
section
/-!
DEFINITION. The pattern sequencer (41_sequencer.md): the tick function TickF and TICK.
-/

namespace Sys2Proof.Machine

/-- The elapsed time `max(0, now − ENTRY_TIME)` (R97). -/
def elapsed (entry now : Timestamp) : Nat := now.toNat - entry.toNat

/-- The target extreme `G`, in 0.1° (R98). -/
def targetOf (c : Cfg) (st : SeqState) : ℤ :=
  match st.phase with
  | .steeringLeft => c.left.toInt
  | .steeringRight => c.right.toInt

/-- The start anchor `A`, in 0.1° (R99). The row PHASE = 1, INITIAL = 1 is never reached (R25); R96's
pseudocode gives it `cfg.LEFT` (log 15). -/
def anchorOf (c : Cfg) (st : SeqState) : ℤ :=
  match st.phase with
  | .steeringLeft => if st.initial then c.straight.toInt else c.right.toInt
  | .steeringRight => c.left.toInt

/-- The ramp's angle in degrees, `(A + (G − A)·e/T) / 10` (R100). -/
def rampAngle (a g : ℤ) (e t : Nat) : ℚ := ((a : ℚ) + ((g - a : ℤ) : ℚ) * (e : ℚ) / (t : ℚ)) / 10

/-- The ramp's rate, `|G − A| · TIMER_HZ / (40 · T)` (R101). -/
def rampRate (a g : ℤ) (hz t : Nat) : ℚ := ((g - a).natAbs : ℚ) * (hz : ℚ) / (40 * (t : ℚ))

/-- The sequence counter's next value, modulo 16 (R104). -/
def seqNext (q : BitVec 4) : BitVec 4 := q + 1

/-- The sequence value a sample carries (R104). -/
def seqOut (c : Cfg) (q : BitVec 4) : BitVec 4 :=
  match c.seqEmit with
  | .pre => q
  | .post => seqNext q

/-- The sample of a tick at elapsed time `e`, from the state before the tick (R96, R105): the ramp while
`e < T`, else the hold; status 0 (R109). -/
def tickSample (c : Cfg) (st : SeqState) (e : Nat) : SignalSample :=
  if e < c.tTrans.toNat then
    { angle := rampAngle (anchorOf c st) (targetOf c st) e c.tTrans.toNat
      rate := rampRate (anchorOf c st) (targetOf c st) c.timerHz c.tTrans.toNat
      status := 0
      sequence := (seqOut c st.seq).toNat }
  else
    { angle := (targetOf c st : ℚ) / 10
      rate := 0
      status := 0
      sequence := (seqOut c st.seq).toNat }

/-- Whether a tick at elapsed time `e` advances the phase (R103): the boundary is inclusive. -/
def advances (c : Cfg) (e : Nat) : Bool := decide (c.tTrans.toNat + c.tHold.toNat ≤ e)

/-- The other phase (R103). -/
def otherPhase : Phase → Phase
  | .steeringLeft => .steeringRight
  | .steeringRight => .steeringLeft

/-- The sequencer's next state at elapsed time `e` (R103, R104, R108). -/
def tickState (c : Cfg) (st : SeqState) (e : Nat) (now : Timestamp) : SeqState :=
  if advances c e then
    { phase := otherPhase st.phase, entryTime := some now, seq := seqNext st.seq, initial := false }
  else { st with seq := seqNext st.seq }

/-- `TickF` (R96): the sample and the next state, both from the state before the tick. `entry` is the
ENTRY_TIME the tick reads. -/
def tickF (c : Cfg) (st : SeqState) (entry now : Timestamp) : SignalSample × SeqState :=
  (tickSample c st (elapsed entry now), tickState c st (elapsed entry now) now)

/-- `TickF` of the machine's state at the present draw of the timer. -/
def tickNow (s : State) : SignalSample × SeqState :=
  tickF s.cfg s.regs.toSeqState (entryTimeRead s) s.now

/-- TICK (R95): only in MANUAL. -/
def execTick (s : State) : Host.Outcome State Fault Refusal :=
  .next
    (if s.regs.ctrl = .manual then
      respond (.sample (tickNow s).1) (s.setRegs (commitTick (tickNow s).2 s.regs))
    else raise .rejectedState s)

end Sys2Proof.Machine
end

