-- ==== Sys2Proof/Machine/Transmit.lean ====
section
/-!
DEFINITION. The transmit controller (42_transmit.md): the host commands START, CANCEL and READ, and the
internal steps ITERATE, SEND and WAIT_EXPIRE.
-/

namespace Sys2Proof.Machine

/-- START (R116): rejected while a run is in progress (R118). -/
def execStart (run : Bool) (s : State) : Host.Outcome State Fault Refusal :=
  .next
    (if inRun s.regs.ctrl then raise .rejectedState s
    else respond .none (s.setRegs (startSession run s.now s.regs)))

/-- CANCEL (R119): accepted in every state. -/
def execCancel (s : State) : Host.Outcome State Fault Refusal :=
  .next (respond .none (s.setRegs (setCancel s.regs)))

/-- READ (R120). -/
def execRead (reg : Nat) (s : State) : Host.Outcome State Fault Refusal :=
  .next
    (match readRegister s.regs reg with
    | .ok v => respond (.value v) s
    | .error e => raise e s)

/-- The registers after an ITERATE in READY: cancellation before the ceiling (R122, R123, R147), else
tick, encode and latch (R124). -/
def iterateRegs (s : State) : Regs :=
  if s.regs.cancel then endRun .cancelled s.regs
  else if ceilingReached s.cfg s.regs.sentCount then endRun .countReached s.regs
  else
    latchFrame (frameWord (encodeFrame s.cfg (tickNow s).1)) (commitTick (tickNow s).2 s.regs)

/-- ITERATE (R121): enabled exactly in READY. -/
def execIterate (s : State) : Host.Outcome State Fault Refusal :=
  .next (if s.regs.ctrl = .ready then moved (s.setRegs (iterateRegs s)) else stuck s)

/-- The transport's answer to this SEND (R137). -/
def sendAnswer (s : State) : SendAnswer := classify s.cfg s.sendResult

/-- The event this SEND appends to the history (R125, R135): the four arguments of `send`, the remote
flag always false. -/
def sendEvent (s : State) : SendEvent where
  now := s.now
  canId := s.cfg.canId
  data := frameOfWord (frameBufRead s)
  extended := s.cfg.extended
  remote := false
  answer := sendAnswer s

/-- The registers after a successful send (R126): one more frame counted, then the pacing wait if
PACING is not zero. -/
def sentRegs (s : State) : Regs :=
  if s.cfg.pacing = 0 then setCtrl .ready (setSentCount (sentCountAfter s) s.regs)
  else
    enterWait .pacing (deadlineAfter s s.cfg.pacing) (setSentCount (sentCountAfter s) s.regs)

/-- The registers after a SEND in SENDING, by the answer (R126, R127, R128). -/
def sendRegs (s : State) : Regs :=
  match sendAnswer s with
  | .ok => sentRegs s
  | .busy => enterWait .backoff (deadlineAfter s s.cfg.backoff) s.regs
  | .fatal code => fatalAbort code s.regs

/-- SEND (R125): enabled exactly in SENDING. -/
def execSend (s : State) : Host.Outcome State Fault Refusal :=
  .next
    (if s.regs.ctrl = .sending then moved ((s.addEvent (sendEvent s)).setRegs (sendRegs s))
    else stuck s)

/-- Where WAIT_EXPIRE leads (R129, R130), if CTRL is a waiting state. -/
def waitTarget : Ctrl → Option Ctrl
  | .idle => none
  | .manual => none
  | .ready => none
  | .sending => none
  | .backoff => some .sending
  | .pacing => some .ready
  | .done => none

/-- WAIT_EXPIRE (R129, R130): enabled in BACKOFF or PACING once `now ≥ DEADLINE`; until then the
controller waits and every register keeps its value (R156). -/
def execWaitExpire (s : State) : Host.Outcome State Fault Refusal :=
  .next
    (match waitTarget s.regs.ctrl with
    | some c =>
      if (deadlineRead s).toNat ≤ s.now.toNat then moved (s.setRegs (setCtrl c s.regs)) else stuck s
    | none => stuck s)

end Sys2Proof.Machine
end

