-- ==== Sys2Proof/Machine/Dispatch.lean ====
section
/-!
DEFINITION. One arm for each constructor of Instr: the instruction's meaning.
-/

namespace Sys2Proof.Machine

def exec (i : Instr) (s : State) : Host.Outcome State Fault Refusal :=
  match i with
  | .encode smp => Sys2Proof.Machine.execEncode smp s
  | .decode f => Sys2Proof.Machine.execDecode f s
  | .tick => Sys2Proof.Machine.execTick s
  | .start run => Sys2Proof.Machine.execStart run s
  | .cancel => Sys2Proof.Machine.execCancel s
  | .read reg => Sys2Proof.Machine.execRead reg s
  | .iterate => Sys2Proof.Machine.execIterate s
  | .send => Sys2Proof.Machine.execSend s
  | .waitExpire => Sys2Proof.Machine.execWaitExpire s

end Sys2Proof.Machine
end

