-- ==== Sys2Proof/Machine/Turn.lean ====
section
/-!
DEFINITION. One agent's turn (R54): the host presents a command, the controller takes the step CTRL
selects, or the reset signal comes.
-/

namespace Sys2Proof.Machine

/-- The host presents a port word (R65): the command it names, or ILLEGAL_COMMAND (R70, R71, R141). -/
def hostTurn (p : PortWord) (s : State) : Host.Outcome State Fault Refusal :=
  match portCommand p with
  | some i => exec i s
  | none => .next (raise .illegalCommand s)

/-- The controller's turn (R115): the internal step CTRL selects, if there is one. -/
def controllerTurn (s : State) : Host.Outcome State Fault Refusal :=
  match controllerStep s.regs.ctrl with
  | some i => exec i s
  | none => .next (stuck s)

/-- One turn, with the environment's draws for it. -/
def takeTurn (slot : Slot) (s : State) : Host.Outcome State Fault Refusal :=
  match slot with
  | .host now port => hostTurn port (s.setNow now)
  | .controller now result => controllerTurn ((s.setNow now).setSendResult result)
  | .reset => .next (resetSignal s)

end Sys2Proof.Machine
end

