-- ==== Sys2Proof/Machine/Step.lean ====
section
/-!
DEFINITION. One step of the machine (R5, R49, R54): the agent whose turn is at the head of the schedule
acts. With no turn pending the block waits, as it does after reset until the host issues a command
(R48, R160).
-/

namespace Sys2Proof.Machine

/-- One step of the machine. -/
def step (s : State) : Host.Outcome State Fault Refusal :=
  match s.schedule with
  | [] => .next s
  | slot :: rest => takeTurn slot (s.dropTurn rest)

/-- The state with the instruction of a table word placed where the next step fetches it (log 2): on the
host's port for a class 0 word; for an internal step, the controller's turn with CTRL (and the register
the step reads) such that CTRL selects it (R71, R115). -/
def State.withFetchWord (s : State) (nbits w : Nat) : State :=
  match decodeTableWord nbits w with
  | some .iterate => placeIterate s
  | some .send => placeSend s
  | some .waitExpire => placeWaitExpire s
  | _ => placeHost (BitVec.ofNat 8 (w % 2 ^ nbits)) s

end Sys2Proof.Machine
end

