-- ==== Sys2Proof/Safety.lean ====
section
/-!
DEFINITION. What the claims call a safe state: the relations between registers that the spec's rules
establish and every step keeps (R9, R25, R26, R31, R32, R62, R162), and the terms for runs and schedules.
-/

namespace Sys2Proof.Machine

/-- `INITIAL = 1` implies `PHASE = 0` (R25). -/
def InitialOnlyInLeft (r : Regs) : Prop := r.initial = true → r.phase = .steeringLeft

/-- The registers that a step of each CTRL state reads hold a value (R162). -/
def ReadsAreWritten (r : Regs) : Prop :=
  (r.ctrl ≠ .idle → r.entryTime.isSome ∧ r.sessionStart.isSome) ∧
  (r.ctrl = .sending ∨ r.ctrl = .backoff → r.frameBuf.isSome) ∧
  (r.ctrl = .backoff ∨ r.ctrl = .pacing → r.deadline.isSome)

/-- A reason is recorded exactly in DONE, and an error code exactly with FATAL (R31, R32, R36, R139). -/
def TerminationRecorded (r : Regs) : Prop :=
  (r.ctrl = .done ↔ r.termReason ≠ .none) ∧ (r.termCode.isSome ↔ r.termReason = .fatal)

/-- The latched frame, if there is one, is well-formed (R62, R90). -/
def LatchWellFormed (r : Regs) : Prop := ∀ w, r.frameBuf = some w → frameWellFormed (frameOfWord w) = true

/-- The safe register states. -/
def Regs.Inv (r : Regs) : Prop :=
  InitialOnlyInLeft r ∧ ReadsAreWritten r ∧ TerminationRecorded r ∧ LatchWellFormed r

/-- Every frame offered to the transport was complete and well-formed, and never a remote one (R46,
R62, R125). -/
def HistoryWellFormed (h : List SendEvent) : Prop :=
  ∀ e ∈ h, frameWellFormed e.data = true ∧ e.remote = false

/-- TERM_CODE and every code of the history are `ERR_WIDTH` bits wide (R9, R32). -/
def State.CodesFit (s : State) : Prop :=
  (∀ c, s.regs.termCode = some c → s.cfg.fitsErrWidth c = true) ∧
  (∀ e ∈ s.history, ∀ c, e.answer = .fatal c → s.cfg.fitsErrWidth c = true)

/-- The safe states of the machine. -/
def State.Inv (s : State) : Prop := s.regs.Inv ∧ HistoryWellFormed s.history ∧ s.CodesFit

/-- The events the transport answered OK: the frames the block transmitted (R135). -/
def sentEvents (h : List SendEvent) : List SendEvent := h.filter (fun e => e.answer = .ok)

/-- The slot is no reset signal. -/
def Slot.notReset : Slot → Bool
  | .host _ _ => true
  | .controller _ _ => true
  | .reset => false

/-- The slot is neither the reset signal nor a START on the port. -/
def Slot.keepsSession : Slot → Bool
  | .host _ p =>
    match portCommand p with
    | some (.start _) => false
    | _ => true
  | .controller _ _ => true
  | .reset => false

/-- `n` steps of the machine (`Host.Core.run`). -/
def runs (n : Nat) (s t : State) : Prop := Host.Core.run Sys2Proof.core n s = .next t

end Sys2Proof.Machine
end

