-- ==== Sys2Proof/Certificates/Slice0/Obligations.lean ====
section
/-!
DEFINITION. The statements for the provers, in the order of the spec's files: encodings, codec,
sequencer, controller, errors and reset, and the rules of the whole machine.
-/

open Sys2Proof Sys2Proof.Machine

/-! ### Encodings (30_encoding.md) -/

/-- R66, R67: every operation has the word of the table. -/
def Obligations.CommandWordsAreThoseOfTheTable : Prop :=
  (∀ smp, (encode (.encode smp)).word = 0x01) ∧ (∀ f, (encode (.decode f)).word = 0x02) ∧
  (encode .tick).word = 0x03 ∧ (encode (.start false)).word = 0x04 ∧
  (encode (.start true)).word = 0x14 ∧ (encode .cancel).word = 0x05 ∧
  (∀ reg, (encode (.read reg)).word = 0x06) ∧ (encode .iterate).word = 0x81 ∧
  (encode .send).word = 0x82 ∧ (encode .waitExpire).word = 0x83

/-- R65, R66: words written out bit by bit decode to the instruction they stand for. -/
def Obligations.WordsOfEveryFamilyDecodeRight : Prop :=
  decode (PortWord.bare 0b0_000_0001) = .ok (.encode ⟨0, 0, 0, 0⟩) ∧
  decode (PortWord.bare 0b0_000_0011) = .ok .tick ∧
  decode (PortWord.bare 0b0_001_0100) = .ok (.start true) ∧
  decode { PortWord.bare 0b0_000_0110 with reg := 10 } = .ok (.read 10) ∧
  decode (PortWord.bare 0b1_000_0010) = .ok .send

/-- R65 to R68: decoding an encoded well-formed instruction gives it back, with every operand. -/
def Obligations.DecodeOfEncodeIsTheInstruction : Prop :=
  ∀ i : Instr, i.wellFormed = true → decode (encode i) = .ok i

/-- R65 to R70: a word has one meaning: whatever decodes is well-formed, and its encoding is that word
with the same operand in the lane the operation reads. -/
def Obligations.EncodeOfDecodeIsTheWord : Prop :=
  ∀ (p : PortWord) (i : Instr), decode p = .ok i →
    i.wellFormed = true ∧ (encode i).word = p.word ∧
    (∀ smp, i = .encode smp → (encode i).sample = p.sample) ∧
    (∀ f, i = .decode f → (encode i).frame = p.frame) ∧
    (∀ reg, i = .read reg → (encode i).reg = p.reg)

/-- spec/opcode_table.json: the decoder accepts exactly the words that belong to a row, and names that
row's instruction. -/
def Obligations.DecoderAgreesWithTheOpcodeTable : Prop :=
  ∀ p : PortWord,
    (∀ i, decode p = .ok i →
      ∃ r ∈ opcodeTable, r.matchesWord p.word = true ∧ r.mnemonic = mnemonicOf i) ∧
    ((∃ r ∈ opcodeTable, r.matchesWord p.word = true) → ∃ i, decode p = .ok i)

/-- R70: a reserved word of class 0 is answered ILLEGAL_COMMAND and changes no state. -/
def Obligations.ReservedHostWordsAnswerIllegalCommand : Prop :=
  ∀ (s : State) (now : Timestamp) (p : PortWord) (rest : List Slot),
    s.schedule = .host now p :: rest →
    (let c := p.word.toNat / 128
     let m := p.word.toNat / 16 % 8
     let op := p.word.toNat % 16
     c = 0 ∧ ((op = 0 ∨ 7 ≤ op) ∨
       ((op = 1 ∨ op = 2 ∨ op = 3 ∨ op = 5 ∨ op = 6) ∧ m ≠ 0) ∨ (op = 4 ∧ m / 2 ≠ 0))) →
    ∃ t, step s = .next t ∧ t.outcome = .response (.error .illegalCommand) ∧
      t.regs = s.regs ∧ t.history = s.history ∧ t.cfg = s.cfg

/-- A class 1 word is never accepted on the command port, and an internal step happens only when CTRL
enables it (R71, R115): from any other state it changes no register and calls no transport. That a
step which is not enabled, R15 (c)'s stuck, is answered as a next state is the model's (DEDUCED, log 3). -/
def Obligations.InternalStepsAreRefusedOnThePortAndGuardedByCtrl : Prop :=
  (∀ (s : State) (now : Timestamp) (p : PortWord) (rest : List Slot),
    s.schedule = .host now p :: rest → 128 ≤ p.word.toNat →
    ∃ t, step s = .next t ∧ t.outcome = .response (.error .illegalCommand) ∧
      t.regs = s.regs ∧ t.history = s.history ∧ t.cfg = s.cfg) ∧
  (∀ s : State,
    let unchanged (i : Instr) : Prop :=
      ∃ t, exec i s = .next t ∧ t.regs = s.regs ∧ t.history = s.history
    (s.regs.ctrl ≠ .ready → unchanged .iterate) ∧ (s.regs.ctrl ≠ .sending → unchanged .send) ∧
    (s.regs.ctrl ≠ .backoff → s.regs.ctrl ≠ .pacing → unchanged .waitExpire))

/-- R41: the frame word is the sum of the shifted bytes, and gives the bytes back. -/
def Obligations.FrameWordHoldsByteIAtBitEightI : Prop :=
  ∀ f : WireFrame,
    (frameWord f).toNat = f.b0.toNat + f.b1.toNat * 2 ^ 8 + f.b2.toNat * 2 ^ 16 +
      f.b3.toNat * 2 ^ 24 + f.b4.toNat * 2 ^ 32 + f.b5.toNat * 2 ^ 40 + f.b6.toNat * 2 ^ 48 +
      f.b7.toNat * 2 ^ 56 ∧
    frameOfWord (frameWord f) = f

/-! ### Codec (40_codec.md) -/

/-- R79: `round`, by the floor and the fraction of its argument. -/
def Obligations.RoundFollowsFloorFractionAndTieRule : Prop :=
  ∀ (ties : RoundTies) (x : ℚ),
    (x - ⌊x⌋ < 1 / 2 → roundRat ties x = ⌊x⌋) ∧
    (1 / 2 < x - ⌊x⌋ → roundRat ties x = ⌊x⌋ + 1) ∧
    (x - ⌊x⌋ = 1 / 2 →
      roundRat .even x = (if Even ⌊x⌋ then ⌊x⌋ else ⌊x⌋ + 1) ∧
      roundRat .away x = (if 0 < x then ⌊x⌋ + 1 else ⌊x⌋))

/-- R13, R79: `round` is a nearest integer, and its tie rule is ties-to-even or ties-away-from-zero. -/
def Obligations.RoundIsNearestEvenOrAway : Prop :=
  ∀ (ties : RoundTies) (x : ℚ),
    |(roundRat ties x : ℚ) - x| ≤ 1 / 2 ∧
    (|(roundRat ties x : ℚ) - x| = 1 / 2 →
      (ties = .even → Even (roundRat ties x)) ∧ (ties = .away → |x| < |(roundRat ties x : ℚ)|))

/-- R80: the rate byte's number, and its range. -/
def Obligations.QuantRoundsOrTruncatesIntoAByte : Prop :=
  ∀ (c : Cfg) (r : ℚ), 0 ≤ r → r ≤ 255 →
    (c.rateQuant = .round → quantRat c r = roundRat c.roundTies r) ∧
    (c.rateQuant = .trunc → quantRat c r = ⌊r⌋) ∧
    0 ≤ quantRat c r ∧ quantRat c r ≤ 255

/-- R88: clamp and round commute on the angle, and clamp and quant on the rate. -/
def Obligations.ClampAndRoundCommute : Prop :=
  (∀ (ties : RoundTies) (x : ℚ),
    roundRat ties (clampRat x (-32768 / 10) (32767 / 10) * 10) =
      clampInt (roundRat ties (x * 10)) (-32768) 32767) ∧
  (∀ (c : Cfg) (r : ℚ), quantRat c (clampRat r 0 255) = clampInt (quantRat c r) 0 255)

/-- R82, with R76 to R81, R83 and R84: what ENCODE answers, in every state, and that it changes
nothing. -/
def Obligations.EncodePacksTheClampedSample : Prop :=
  ∀ (smp : SignalSample) (s : State), (encode (.encode smp)).word = 0x01 ∧ ∃ f : WireFrame,
    exec (.encode smp) s = .next { s with outcome := .response (.ok (.frame f)) } ∧
    ((f.b0.toNat + 256 * f.b1.toNat : ℕ) : ℤ) =
      (let raw := roundRat s.cfg.roundTies (clampRat smp.angle (-32768 / 10) (32767 / 10) * 10)
       if raw < 0 then raw + 65536 else raw) ∧
    (f.b2.toNat : ℤ) = quantRat s.cfg (clampRat smp.rate 0 255) ∧
    (f.b3.toNat : ℤ) = clampInt smp.status 0 255 ∧
    (f.b4.toNat : ℤ) = 16 * clampInt smp.sequence 0 15 +
      (((f.b0 ^^^ f.b1 ^^^ f.b2 ^^^ f.b3).toNat % 16 : ℕ) : ℤ) ∧
    f.b5 = 0 ∧ f.b6 = 0 ∧ f.b7 = 0

/-- R85, R86, R87: what DECODE answers, on every frame and in every state, and that it changes
nothing. -/
def Obligations.DecodeUnpacksEveryFrame : Prop :=
  ∀ (f : WireFrame) (s : State), (encode (.decode f)).word = 0x02 ∧ ∃ d : DecodedSample,
    exec (.decode f) s = .next { s with outcome := .response (.ok (.decoded d)) } ∧
    d.raw = (let u : ℤ := f.b0.toNat + 256 * f.b1.toNat
             if 32768 ≤ u then u - 65536 else u) ∧
    d.angle = (d.raw : ℚ) / 10 ∧ d.rate = f.b2 ∧ d.status = f.b3 ∧
    d.sequence.toNat = f.b4.toNat / 16 ∧ d.checksum.toNat = f.b4.toNat % 16 ∧
    d.checksumCalc.toNat = (f.b0 ^^^ f.b1 ^^^ f.b2 ^^^ f.b3).toNat % 16 ∧
    (d.csOk = true ↔ d.checksum = d.checksumCalc) ∧
    (d.rsvNz = true ↔ f.b5 ≠ 0 ∨ f.b6 ≠ 0 ∨ f.b7 ≠ 0)

/-- R89: DECODE of ENCODE gives the sample back, for every raw angle, integer rate, status and
sequence in range and every parameter value. -/
def Obligations.DecodeOfEncodeGivesTheSampleBack : Prop :=
  ∀ (s : State) (k rate status sequence : ℤ),
    -32768 ≤ k → k ≤ 32767 → 0 ≤ rate → rate ≤ 255 → 0 ≤ status → status ≤ 255 →
    0 ≤ sequence → sequence ≤ 15 →
    ∃ (f : WireFrame) (d : DecodedSample) (t : State),
      exec (.encode ⟨(k : ℚ) / 10, rate, status, sequence⟩) s = .next t ∧
      t.outcome = .response (.ok (.frame f)) ∧
      exec (.decode f) t = .next { t with outcome := .response (.ok (.decoded d)) } ∧
      d.raw = k ∧ d.angle = (k : ℚ) / 10 ∧ (d.rate.toNat : ℤ) = rate ∧
      (d.status.toNat : ℤ) = status ∧ (d.sequence.toNat : ℤ) = sequence ∧
      d.csOk = true ∧ d.rsvNz = false

/-- R90: every frame ENCODE returns is well-formed (R62). -/
def Obligations.EncodedFramesAreWellFormed : Prop :=
  ∀ (smp : SignalSample) (s : State), ∃ (f : WireFrame) (t : State),
    exec (.encode smp) s = .next t ∧ t.outcome = .response (.ok (.frame f)) ∧
    f.b4.toNat % 16 = (f.b0 ^^^ f.b1 ^^^ f.b2 ^^^ f.b3).toNat % 16 ∧
    f.b5 = 0 ∧ f.b6 = 0 ∧ f.b7 = 0

/-- R91: re-encoding a decoded frame corrects its checksum nibble and clears its reserved bytes; it
gives the frame back exactly when the frame is well-formed. -/
def Obligations.ReencodingCorrectsTheFrame : Prop :=
  ∀ (c : Cfg) (f : WireFrame),
    (let d := decodeFrame f
     let g := encodeFrame c ⟨d.angle, (d.rate.toNat : ℚ), d.status.toNat, d.sequence.toNat⟩
     g = { f with b4 := storedSequence f ++ chk f, b5 := 0, b6 := 0, b7 := 0 } ∧
     (g = f ↔ frameWellFormed f = true))

/-- R94: a decoded angle is a multiple of 1/10 in range, and `raw` takes every value of s16 exactly once
over bytes 0 and 1. -/
def Obligations.DecodedAnglesCoverTheRangeOnce : Prop :=
  (∀ f : WireFrame, (decodeFrame f).angle = ((decodeFrame f).raw : ℚ) / 10 ∧
    -32768 / 10 ≤ (decodeFrame f).angle ∧ (decodeFrame f).angle ≤ 32767 / 10) ∧
  (∀ k : ℤ, -32768 ≤ k → k ≤ 32767 →
    ∃! b : Byte × Byte, ∀ f : WireFrame, f.b0 = b.1 → f.b1 = b.2 → (decodeFrame f).raw = k)

/-- R75, R92: two states that agree on ROUND_TIES and RATE_QUANT get the same answer from ENCODE, and
any two states the same answer from DECODE, whatever came before. -/
def Obligations.CodecAnswersDependOnOperandsAlone : Prop :=
  ∀ s s' : State,
    (∀ smp, s.cfg.roundTies = s'.cfg.roundTies → s.cfg.rateQuant = s'.cfg.rateQuant →
      ∃ r, exec (.encode smp) s = .next { s with outcome := r } ∧
        exec (.encode smp) s' = .next { s' with outcome := r }) ∧
    (∀ f, ∃ r, exec (.decode f) s = .next { s with outcome := r } ∧
      exec (.decode f) s' = .next { s' with outcome := r })

/-! ### Sequencer (41_sequencer.md) -/

/-- R95, R96 with R97 to R105, R108 and R109: what TICK answers in MANUAL and the four registers it
writes. -/
def Obligations.TickInManualFollowsTickF : Prop :=
  ∀ (s : State) (t0 : Timestamp), s.regs.ctrl = .manual → s.regs.entryTime = some t0 →
    let c := s.cfg
    let e : ℤ := max 0 ((s.now.toNat : ℤ) - t0.toNat)
    let T : ℤ := c.tTrans.toNat
    let H : ℤ := c.tHold.toNat
    let G : ℤ := if s.regs.phase = .steeringLeft then c.left.toInt else c.right.toInt
    let A : ℤ := if s.regs.phase = .steeringLeft then
        (if s.regs.initial then c.straight.toInt else c.right.toInt) else c.left.toInt
    let next : ℕ := (s.regs.seq.toNat + 1) % 16
    exec .tick s = .next
      { s with
        outcome := .response (.ok (.sample
          { angle := if e < T then ((A : ℚ) + ((G : ℚ) - A) * e / T) / 10 else (G : ℚ) / 10
            rate := if e < T then |(G : ℚ) - A| * c.timerHz / (40 * T) else 0
            status := 0
            sequence := if c.seqEmit = .pre then s.regs.seq.toNat else next }))
        regs :=
          { s.regs with
            phase := if T + H ≤ e then
                (if s.regs.phase = .steeringLeft then .steeringRight else .steeringLeft)
              else s.regs.phase
            entryTime := if T + H ≤ e then some s.now else some t0
            initial := if T + H ≤ e then false else s.regs.initial
            seq := BitVec.ofNat 4 next } }

/-- R95: TICK runs `TickF` at `now` and commits its next state in MANUAL alone; in every other state it
answers REJECTED_STATE and changes nothing. -/
def Obligations.TickCommitsTickFInManualAlone : Prop :=
  (encode .tick).word = 0x03 ∧
  ∀ s : State,
    (s.regs.ctrl ≠ .manual →
      exec .tick s = .next { s with outcome := .response (.error .rejectedState) }) ∧
    (∀ t0, s.regs.ctrl = .manual → s.regs.entryTime = some t0 →
      let tick := tickF s.cfg s.regs.toSeqState t0 s.now
      exec .tick s =
        .next { s with
          outcome := .response (.ok (.sample tick.1))
          regs := { s.regs with toSeqState := tick.2 } })

/-- R63: the finite-width realisation: the sample's angle and rate are the quotients of the integers the
rule names. -/
def Obligations.SampleValuesAreTheNamedFractions : Prop :=
  ∀ (c : Cfg) (st : SeqState) (e : ℕ), e < c.tTrans.toNat →
    (tickSample c st e).angle =
      ((anchorOf c st * c.tTrans.toNat + (targetOf c st - anchorOf c st) * e : ℤ) : ℚ) /
        ((10 * c.tTrans.toNat : ℕ) : ℚ) ∧
    (tickSample c st e).rate =
      ((|targetOf c st - anchorOf c st| * c.timerHz : ℤ) : ℚ) / ((40 * c.tTrans.toNat : ℕ) : ℚ)

/-- R110, R171: a ramp's rate is zero when it has nowhere to go, positive otherwise, and the same at every
tick of the ramp; where it passes 255 the rate byte is 0xFF throughout the ramp. -/
def Obligations.RampRateIsConstantPositiveAndSaturates : Prop :=
  ∀ (c : Cfg) (st : SeqState) (e e' : ℕ), c.timerHzPositive = true → e < c.tTrans.toNat →
    e' < c.tTrans.toNat →
    (tickSample c st e).rate = (tickSample c st e').rate ∧
    (targetOf c st = anchorOf c st →
      (tickSample c st e).rate = 0 ∧ (tickSample c st e).angle = (anchorOf c st : ℚ) / 10) ∧
    (targetOf c st ≠ anchorOf c st → 0 < (tickSample c st e).rate) ∧
    (255 < |(targetOf c st : ℚ) - anchorOf c st| * c.timerHz / (40 * c.tTrans.toNat) →
      (encodeFrame c (tickSample c st e)).b2 = 0xFF)

/-- R111: a ramp's angle lies between the anchor, reached at e = 0, and the target, never reached within
the ramp; a hold's angle is the target. -/
def Obligations.RampAngleLiesBetweenAnchorAndTarget : Prop :=
  ∀ (c : Cfg) (st : SeqState) (e : ℕ),
    (e < c.tTrans.toNat →
      min ((anchorOf c st : ℚ) / 10) ((targetOf c st : ℚ) / 10) ≤ (tickSample c st e).angle ∧
      (tickSample c st e).angle ≤ max ((anchorOf c st : ℚ) / 10) ((targetOf c st : ℚ) / 10) ∧
      (e = 0 → (tickSample c st e).angle = (anchorOf c st : ℚ) / 10) ∧
      (anchorOf c st ≠ targetOf c st → (tickSample c st e).angle ≠ (targetOf c st : ℚ) / 10)) ∧
    (c.tTrans.toNat ≤ e → (tickSample c st e).angle = (targetOf c st : ℚ) / 10)

/-- R106: with no transition time every tick's sample is the target, at rate 0; with no hold time either,
every tick advances the phase. -/
def Obligations.ZeroTransitionJumpsToTheTarget : Prop :=
  ∀ (c : Cfg) (st : SeqState) (t0 now : Timestamp), c.tTrans = 0 →
    let tick := tickF c st t0 now
    tick.1.angle = (targetOf c st : ℚ) / 10 ∧ tick.1.rate = 0 ∧
    (c.tHold = 0 →
      tick.2.phase ≠ st.phase ∧ tick.2.entryTime = some now ∧ tick.2.initial = false)

/-- R113: a tick before ENTRY_TIME behaves as at the first instant of the phase, and moves ENTRY_TIME only
if it advances. -/
def Obligations.BackwardTimerTicksAtThePhaseStart : Prop :=
  ∀ (c : Cfg) (st : SeqState) (t0 now : Timestamp), now.toNat < t0.toNat →
    st.entryTime = some t0 →
    let tick := tickF c st t0 now
    (0 < c.tTrans.toNat →
      tick.1.angle = (anchorOf c st : ℚ) / 10 ∧
      tick.1.rate =
        |(targetOf c st : ℚ) - anchorOf c st| * c.timerHz / (40 * c.tTrans.toNat)) ∧
    (c.tTrans.toNat = 0 → tick.1.angle = (targetOf c st : ℚ) / 10 ∧ tick.1.rate = 0) ∧
    (c.tTrans.toNat + c.tHold.toNat = 0 →
      tick.2.phase ≠ st.phase ∧ tick.2.entryTime = some now ∧ tick.2.initial = false) ∧
    (c.tTrans.toNat + c.tHold.toNat ≠ 0 →
      tick.2.phase = st.phase ∧ tick.2.entryTime = some t0 ∧ tick.2.initial = st.initial)

/-- R112: after sixteen TICKs the sequence counter is back where it started, whatever the phase did. -/
def Obligations.SixteenTicksReturnTheSequence : Prop :=
  ∀ (s : State) (times : List Timestamp) (rest : List Slot), times.length = 16 →
    s.regs.ctrl = .manual →
    s.schedule = times.map (fun t => Slot.host t (encode .tick)) ++ rest →
    ∃ t, runs 16 s t ∧ t.regs.seq = s.regs.seq ∧ t.regs.ctrl = .manual ∧ t.schedule = rest

/-! ### Controller (42_transmit.md) -/

/-- R116: START outside a run creates a session; FRAME_BUF and DEADLINE are not touched. In a run it
answers REJECTED_STATE and changes nothing. -/
def Obligations.StartCreatesAFreshSession : Prop :=
  ∀ (s : State) (run : Bool),
    (encode (.start run)).word = (if run then 0x14 else 0x04) ∧
    (s.regs.ctrl = .idle ∨ s.regs.ctrl = .manual ∨ s.regs.ctrl = .done →
      exec (.start run) s = .next
        { s with
          outcome := .response (.ok .none)
          regs :=
            { phase := .steeringLeft, initial := true, seq := 0, entryTime := some s.now,
              sessionStart := some s.now, sentCount := 0, cancel := false, termReason := .none,
              termCode := none, ctrl := if run then .ready else .manual,
              frameBuf := s.regs.frameBuf, deadline := s.regs.deadline } }) ∧
    (s.regs.ctrl = .ready ∨ s.regs.ctrl = .sending ∨ s.regs.ctrl = .backoff ∨
        s.regs.ctrl = .pacing →
      exec (.start run) s = .next { s with outcome := .response (.error .rejectedState) })

/-- R118: while a run is in progress START and TICK answer REJECTED_STATE and change nothing; ENCODE and
DECODE of any operands and CANCEL answer OK, and so does READ of every register that holds a value. READ's
only errors are its own (R120), never REJECTED_STATE. -/
def Obligations.OnlyFourCommandsSucceedDuringARun : Prop :=
  ∀ s : State,
    s.regs.ctrl = .ready ∨ s.regs.ctrl = .sending ∨ s.regs.ctrl = .backoff ∨
      s.regs.ctrl = .pacing →
    let rejected (i : Instr) : Prop :=
      exec i s = .next { s with outcome := .response (.error .rejectedState) }
    let succeeds (i : Instr) : Prop :=
      ∃ p : Payload, exec i s = .next { s with outcome := .response (.ok p) }
    let answered (i : Instr) : Prop :=
      ∃ r : Response, exec i s = .next { s with outcome := .response r } ∧
        r ≠ .error .rejectedState ∧ r ≠ .error .illegalCommand
    let holdsValue (reg : ℕ) : Prop :=
      reg ≤ 11 ∧ (reg = 4 → s.regs.entryTime ≠ none) ∧ (reg = 5 → s.regs.sessionStart ≠ none) ∧
        (reg = 7 → s.regs.deadline ≠ none) ∧ (reg = 8 → s.regs.frameBuf ≠ none) ∧
        (reg = 10 → s.regs.termCode ≠ none)
    rejected .tick ∧ (∀ run, rejected (.start run)) ∧ (∀ smp, succeeds (.encode smp)) ∧
    (∀ f, succeeds (.decode f)) ∧ (∀ reg, holdsValue reg → succeeds (.read reg)) ∧
    (∀ reg, answered (.read reg)) ∧
    exec .cancel s =
      .next { s with outcome := .response (.ok .none), regs := { s.regs with cancel := true } }

/-- R119: CANCEL is accepted in every state and writes CANCEL alone. -/
def Obligations.CancelSetsTheFlagInEveryState : Prop :=
  ∀ s : State, (encode .cancel).word = 0x05 ∧ exec .cancel s =
    .next { s with outcome := .response (.ok .none), regs := { s.regs with cancel := true } }

/-- R36, R120: READ answers the register the map names, ILLEGAL_REGISTER for a reserved number and
UNWRITTEN for a register that holds no value; it changes nothing. -/
def Obligations.ReadFollowsTheRegisterMap : Prop :=
  (∀ reg, (encode (.read reg)).word = 0x06) ∧
  ∀ s : State,
    let answers (reg v : ℕ) : Prop :=
      exec (.read reg) s = .next { s with outcome := .response (.ok (.value v)) }
    let fails (reg : ℕ) (e : CommandError) : Prop :=
      exec (.read reg) s = .next { s with outcome := .response (.error e) }
    answers 0 (match s.regs.ctrl with
      | .idle => 0 | .manual => 1 | .ready => 2 | .sending => 3 | .backoff => 4 | .pacing => 5
      | .done => 6) ∧
    answers 1 (match s.regs.phase with | .steeringLeft => 0 | .steeringRight => 1) ∧
    answers 2 (if s.regs.initial then 1 else 0) ∧
    answers 3 s.regs.seq.toNat ∧
    (∀ v, s.regs.entryTime = some v → answers 4 v.toNat) ∧
    (s.regs.entryTime = none → fails 4 .unwritten) ∧
    (∀ v, s.regs.sessionStart = some v → answers 5 v.toNat) ∧
    (s.regs.sessionStart = none → fails 5 .unwritten) ∧
    answers 6 s.regs.sentCount.toNat ∧
    (∀ v, s.regs.deadline = some v → answers 7 v.toNat) ∧
    (s.regs.deadline = none → fails 7 .unwritten) ∧
    (∀ v, s.regs.frameBuf = some v → answers 8 v.toNat) ∧
    (s.regs.frameBuf = none → fails 8 .unwritten) ∧
    answers 9 (match s.regs.termReason with
      | .none => 0 | .countReached => 1 | .cancelled => 2 | .fatal => 3) ∧
    (∀ v, s.regs.termCode = some v → answers 10 v) ∧
    (s.regs.termCode = none → fails 10 .unwritten) ∧
    answers 11 (if s.regs.cancel then 1 else 0) ∧
    (∀ reg, 12 ≤ reg → fails reg .illegalRegister)

/-- R122, R147: with CANCEL set ITERATE ends the run as CANCELLED, also where the ceiling is reached;
nothing else changes. -/
def Obligations.IterateEndsACancelledRun : Prop :=
  ∀ s : State, s.regs.ctrl = .ready → s.regs.cancel = true →
    exec .iterate s =
      .next { s with outcome := .moved, regs := { s.regs with termReason := .cancelled, ctrl := .done } }

/-- R123: with SENT_COUNT at the ceiling ITERATE ends the run as COUNT_REACHED; with no ceiling it never
does. -/
def Obligations.IterateEndsARunAtItsCeiling : Prop :=
  ∀ s : State, s.regs.ctrl = .ready → s.regs.cancel = false →
    (∀ m, s.cfg.maxFrames = some m → m.toNat ≤ s.regs.sentCount.toNat →
      exec .iterate s =
        .next { s with
          outcome := .moved, regs := { s.regs with termReason := .countReached, ctrl := .done } }) ∧
    (s.cfg.maxFrames = none → ∃ t, exec .iterate s = .next t ∧ t.regs.ctrl = .sending ∧
      t.regs.termReason = s.regs.termReason)

/-- R121, R124: otherwise ITERATE ticks at `now`, commits the sequencer, latches the encoded frame and
goes to SENDING; no other register changes and the transport is not called. -/
def Obligations.IterateTicksEncodesAndLatches : Prop :=
  ∀ (s : State) (t0 : Timestamp), s.regs.ctrl = .ready → s.regs.cancel = false →
    (∀ m, s.cfg.maxFrames = some m → s.regs.sentCount.toNat < m.toNat) →
    s.regs.entryTime = some t0 →
    let tick := tickF s.cfg s.regs.toSeqState t0 s.now
    exec .iterate s =
      .next { s with
        outcome := .moved
        regs :=
          { s.regs with
            toSeqState := tick.2, frameBuf := some (frameWord (encodeFrame s.cfg tick.1)),
            ctrl := .sending } }

/-- R124, R96: the tick and the frame of ITERATE are those of the host commands TICK and ENCODE: from the
same registers in MANUAL, TICK and then ENCODE of its sample give the sequencer and the frame that ITERATE
commits and latches. -/
def Obligations.IterateIsTickThenEncode : Prop :=
  ∀ s : State, s.regs.ctrl = .ready → s.regs.cancel = false →
    (∀ m, s.cfg.maxFrames = some m → s.regs.sentCount.toNat < m.toNat) →
    ∃ (t u v : State) (smp : SignalSample) (f : WireFrame),
      exec .iterate s = .next t ∧
      exec .tick { s with regs := { s.regs with ctrl := .manual } } = .next u ∧
      u.outcome = .response (.ok (.sample smp)) ∧
      exec (.encode smp) u = .next v ∧ v.outcome = .response (.ok (.frame f)) ∧
      t.regs = { u.regs with frameBuf := some (frameWord f), ctrl := .sending }

/-- R125, R126: a SEND answered OK counts one frame, records the call, and waits PACING ticks in PACING
if PACING is not zero. -/
def Obligations.SendAnsweredOkCountsTheFrame : Prop :=
  ∀ (s : State) (w : FrameWord), s.regs.ctrl = .sending → s.regs.frameBuf = some w →
    s.sendResult = .ok → s.regs.sentCount.toNat + 1 < 2 ^ 64 →
    s.now.toNat + s.cfg.pacing.toNat < 2 ^ 64 →
    exec .send s =
      .next { s with
        outcome := .moved
        history := s.history ++ [⟨s.now, s.cfg.canId, frameOfWord w, s.cfg.extended, false, .ok⟩]
        regs :=
          { s.regs with
            sentCount := BitVec.ofNat 64 (s.regs.sentCount.toNat + 1)
            deadline := if 0 < s.cfg.pacing.toNat then
                some (BitVec.ofNat 64 (s.now.toNat + s.cfg.pacing.toNat)) else s.regs.deadline
            ctrl := if 0 < s.cfg.pacing.toNat then .pacing else .ready } }

/-- R125, R127: a SEND answered BUSY waits BACKOFF ticks in BACKOFF; no tick, no new frame, no count. -/
def Obligations.SendAnsweredBusyBacksOff : Prop :=
  ∀ (s : State) (w : FrameWord), s.regs.ctrl = .sending → s.regs.frameBuf = some w →
    s.sendResult = .err s.cfg.busyCode → s.now.toNat + s.cfg.backoff.toNat < 2 ^ 64 →
    exec .send s =
      .next { s with
        outcome := .moved
        history := s.history ++ [⟨s.now, s.cfg.canId, frameOfWord w, s.cfg.extended, false, .busy⟩]
        regs :=
          { s.regs with
            deadline := some (BitVec.ofNat 64 (s.now.toNat + s.cfg.backoff.toNat))
            ctrl := .backoff } }

/-- R125, R128, R149: a SEND answered with any other error ends the run at once; it writes TERM_REASON,
TERM_CODE and CTRL alone, and records the code unchanged. The code and BUSY_CODE are `ERR_WIDTH` bits
wide, as R9 makes every ErrorCode. -/
def Obligations.SendAnsweredFatalAbortsTheRun : Prop :=
  ∀ (s : State) (w : FrameWord) (code : ErrorCode), s.regs.ctrl = .sending →
    s.regs.frameBuf = some w → s.sendResult = .err code → code < 2 ^ s.cfg.errWidth →
    s.cfg.busyCode < 2 ^ s.cfg.errWidth → code ≠ s.cfg.busyCode →
    exec .send s =
      .next { s with
        outcome := .moved
        history :=
          s.history ++ [⟨s.now, s.cfg.canId, frameOfWord w, s.cfg.extended, false, .fatal code⟩]
        regs := { s.regs with termReason := .fatal, termCode := some code, ctrl := .done } }

/-- Every SEND completes, appends one event with its classified answer (R125, R135, R137), and never writes
FRAME_BUF or a sequencer register. That it completes also where `now + BACKOFF` or `now + PACING`
reaches 2^64 or SENT_COUNT is 2^64 − 1 is the model's choice (log 5, log 6): the spec describes no behaviour
there (R152, R27). A number stands for the code of its `ERR_WIDTH` bits (log 9). -/
def Obligations.EverySendAppendsOneEvent : Prop :=
  ∀ (s : State) (w : FrameWord), s.regs.ctrl = .sending → s.regs.frameBuf = some w →
    ∃ (t : State) (a : SendAnswer), exec .send s = .next t ∧
      t.history = s.history ++ [⟨s.now, s.cfg.canId, frameOfWord w, s.cfg.extended, false, a⟩] ∧
      (a = .ok ↔ s.sendResult = .ok) ∧
      (∀ n, s.sendResult = .err n →
        let code := n % 2 ^ s.cfg.errWidth
        (code = s.cfg.busyCode % 2 ^ s.cfg.errWidth → a = .busy) ∧
        (code ≠ s.cfg.busyCode % 2 ^ s.cfg.errWidth → a = .fatal code)) ∧
      t.regs.frameBuf = some w ∧ t.regs.toSeqState = s.regs.toSeqState ∧
      t.regs.sessionStart = s.regs.sessionStart ∧ t.regs.cancel = s.regs.cancel ∧
      (a = .ok → t.regs.ctrl = .ready ∨ t.regs.ctrl = .pacing) ∧
      (a = .busy → t.regs.ctrl = .backoff) ∧ (∀ c, a = .fatal c → t.regs.ctrl = .done)

/-- R129, R130: WAIT_EXPIRE leaves BACKOFF to SENDING and PACING to READY once `now ≥ DEADLINE`, and
changes CTRL alone. -/
def Obligations.WaitExpireLeavesTheWait : Prop :=
  ∀ (s : State) (d : Timestamp), s.regs.deadline = some d → d.toNat ≤ s.now.toNat →
    (s.regs.ctrl = .backoff →
      exec .waitExpire s =
        .next { s with outcome := .moved, regs := { s.regs with ctrl := .sending } }) ∧
    (s.regs.ctrl = .pacing →
      exec .waitExpire s =
        .next { s with outcome := .moved, regs := { s.regs with ctrl := .ready } })

/-- R156: before DEADLINE every register keeps its value throughout the wait (the outcome `stuck` is the
model's, log 3). -/
def Obligations.WaitKeepsEveryRegisterUntilItsDeadline : Prop :=
  ∀ (s : State) (d : Timestamp), s.regs.ctrl = .backoff ∨ s.regs.ctrl = .pacing →
    s.regs.deadline = some d → s.now.toNat < d.toNat →
    exec .waitExpire s = .next { s with outcome := .stuck }

/-! ### One step of the machine -/

/-- R65, R66, R49: a step whose turn is the host's, with a class 0 word that decodes, runs that command
on the state with the turn taken and the timer's draw. -/
def Obligations.HostTurnRunsTheDecodedCommand : Prop :=
  ∀ (s : State) (now : Timestamp) (p : PortWord) (rest : List Slot) (i : Instr),
    s.schedule = .host now p :: rest → decode p = .ok i → p.word.toNat < 128 →
    step s = exec i { s with schedule := rest, turn := s.turn + 1, now := now }

/-- R71, R115: a step whose turn is the controller's runs the internal step CTRL enables, on the state
with the turn taken and the draws of the timer and the transport. In IDLE, MANUAL and DONE no internal step
is enabled, R15 (c)'s stuck; that the step is then answered as a next state whose outcome says stuck is the
model's (DEDUCED, log 3). -/
def Obligations.ControllerTurnRunsTheEnabledStep : Prop :=
  ∀ (s : State) (now : Timestamp) (r : SendResult) (rest : List Slot),
    s.schedule = .controller now r :: rest →
    let s' : State := { s with schedule := rest, turn := s.turn + 1, now := now, sendResult := r }
    (s.regs.ctrl = .ready → step s = exec .iterate s') ∧
    (s.regs.ctrl = .sending → step s = exec .send s') ∧
    (s.regs.ctrl = .backoff ∨ s.regs.ctrl = .pacing → step s = exec .waitExpire s') ∧
    (s.regs.ctrl = .idle ∨ s.regs.ctrl = .manual ∨ s.regs.ctrl = .done →
      step s = .next { s' with outcome := .stuck })

/-- Every step of the machine answers a next state: no draw and no command stops it (R142, R145). This is
the model's choice where R15 (c)'s stuck is answered as a next state (log 3), where a step reads a
register that holds no value (log 4), and where a SEND's DEADLINE or SENT_COUNT is not described by the
spec (log 5, log 6). With no agent's turn pending a step changes nothing (the empty schedule is the model's
too, log 1). -/
def Obligations.EveryStepAnswersANextState : Prop :=
  ∀ s : State, ∃ t, step s = .next t ∧ (s.schedule = [] → t = s)

/-- R140: a host turn answered with an error leaves every register as it was, and the history. -/
def Obligations.CommandErrorsLeaveNoTrace : Prop :=
  ∀ (s t : State) (now : Timestamp) (p : PortWord) (rest : List Slot) (e : CommandError),
    s.schedule = .host now p :: rest → step s = .next t → t.outcome = .response (.error e) →
    t.regs = s.regs ∧ t.history = s.history

/-- The reset signal, at any point, puts every register at its reset value; after it no controller step
is enabled (R160): an internal step changes no register and calls no transport. That such a step, R15 (c)'s
stuck, is answered as a next state is the model's (DEDUCED, log 3). -/
def Obligations.ResetSignalRestoresEveryRegister : Prop :=
  ∀ (s : State) (rest : List Slot), s.schedule = .reset :: rest →
    ∃ t, step s = .next t ∧
      t.regs =
        { ctrl := .idle, phase := .steeringLeft, initial := true, seq := 0, sentCount := 0,
          termReason := .none, cancel := false, entryTime := none, sessionStart := none,
          frameBuf := none, deadline := none, termCode := none } ∧
      (∀ i : Instr, i.isInternal = true →
        ∃ u, exec i t = .next u ∧ u.regs = t.regs ∧ u.history = t.history)

/-- R38: the registers of the state right after reset. -/
def Obligations.ResetStateHoldsTheSpecValues : Prop :=
  State.reset.regs =
    { ctrl := .idle, phase := .steeringLeft, initial := true, seq := 0, entryTime := none,
      sessionStart := none, sentCount := 0, frameBuf := none, deadline := none,
      termReason := .none, termCode := none, cancel := false }

/-! ### Rules of the whole machine -/

/-- R115: CTRL follows the transition table, and nothing else changes it. -/
def Obligations.ControlFollowsTheTransitionTable : Prop :=
  ∀ (s t : State) (slot : Slot) (rest : List Slot), s.schedule = slot :: rest → step s = .next t →
    (slot = .reset → t.regs.ctrl = .idle) ∧
    (∀ now p, slot = .host now p →
      (∀ run, decode p = .ok (.start run) →
        (s.regs.ctrl = .idle ∨ s.regs.ctrl = .manual ∨ s.regs.ctrl = .done →
          t.regs.ctrl = if run then .ready else .manual) ∧
        (¬(s.regs.ctrl = .idle ∨ s.regs.ctrl = .manual ∨ s.regs.ctrl = .done) →
          t.regs.ctrl = s.regs.ctrl)) ∧
      ((∀ run, decode p ≠ .ok (.start run)) → t.regs.ctrl = s.regs.ctrl)) ∧
    (∀ now r, slot = .controller now r →
      (s.regs.ctrl = .ready →
        t.regs.ctrl =
          if s.regs.cancel = true ∨ ∃ m, s.cfg.maxFrames = some m ∧ m.toNat ≤ s.regs.sentCount.toNat
          then .done else .sending) ∧
      (s.regs.ctrl = .sending →
        (classify s.cfg r = .ok →
          t.regs.ctrl = if 0 < s.cfg.pacing.toNat then .pacing else .ready) ∧
        (classify s.cfg r = .busy → t.regs.ctrl = .backoff) ∧
        (∀ c, classify s.cfg r = .fatal c → t.regs.ctrl = .done)) ∧
      (∀ d, s.regs.deadline = some d →
        (s.regs.ctrl = .backoff →
          t.regs.ctrl = if d.toNat ≤ now.toNat then .sending else .backoff) ∧
        (s.regs.ctrl = .pacing →
          t.regs.ctrl = if d.toNat ≤ now.toNat then .ready else .pacing)) ∧
      (s.regs.ctrl = .idle ∨ s.regs.ctrl = .manual ∨ s.regs.ctrl = .done →
        t.regs.ctrl = s.regs.ctrl))

/-- R25: `INITIAL = 1` implies `PHASE = 0`, kept by every step and established by START. -/
def Obligations.InitialImpliesLeftIsKept : Prop :=
  (∀ s t : State, InitialOnlyInLeft s.regs → step s = .next t → InitialOnlyInLeft t.regs) ∧
  (∀ (s t : State) (run : Bool),
    s.regs.ctrl = .idle ∨ s.regs.ctrl = .manual ∨ s.regs.ctrl = .done →
    exec (.start run) s = .next t → t.regs.initial = true ∧ t.regs.phase = .steeringLeft)

/-- The invariant of the registers and the history holds at reset (R9, R25, R31, R32, R62, R162). -/
def Obligations.SafeStateHoldsAtReset : Prop := State.reset.Inv

/-- Every step keeps the invariant: INITIAL only in SteeringLeft (R25), no step reads a register that
holds no value (R162), a reason exactly in DONE and a code exactly with FATAL (R31, R32), only
well-formed, non-remote frames latched and sent (R62, R90, R125), and error codes of `ERR_WIDTH` bits
(R9, R32). -/
def Obligations.EveryStepKeepsTheSafeState : Prop :=
  ∀ s t : State, s.Inv → step s = .next t → t.Inv

/-- R35, R168: no step changes the configuration. -/
def Obligations.NoStepChangesTheConfiguration : Prop :=
  ∀ s t : State, step s = .next t → t.cfg = s.cfg

/-- R27 to R33: each register of the session and the controller changes only in the steps its rule
names. -/
def Obligations.RegistersChangeOnlyInTheirOwnSteps : Prop :=
  ∀ (s t : State) (slot : Slot) (rest : List Slot), s.schedule = slot :: rest → step s = .next t →
    slot ≠ .reset →
    (let starts : Prop := ∃ now p run, slot = .host now p ∧ decode p = .ok (.start run)
     let iterates : Prop := (∃ now r, slot = .controller now r) ∧ s.regs.ctrl = .ready
     let sends (a : SendAnswer) : Prop :=
       (∃ now r, slot = .controller now r ∧ classify s.cfg r = a) ∧ s.regs.ctrl = .sending
     (t.regs.sentCount ≠ s.regs.sentCount → starts ∨ sends .ok) ∧
     (t.regs.sessionStart ≠ s.regs.sessionStart → starts) ∧
     (t.regs.frameBuf ≠ s.regs.frameBuf → iterates) ∧
     (t.regs.deadline ≠ s.regs.deadline →
       (sends .ok ∧ 0 < s.cfg.pacing.toNat) ∨ sends .busy) ∧
     (t.regs.termReason ≠ s.regs.termReason →
       starts ∨ iterates ∨ ∃ c, sends (.fatal c)) ∧
     (t.regs.termCode ≠ s.regs.termCode →
       (starts ∧ t.regs.termCode = none) ∨ ∃ c, sends (.fatal c) ∧ t.regs.termCode = some c) ∧
     (t.regs.cancel ≠ s.regs.cancel →
       starts ∨ ∃ now p, slot = .host now p ∧ decode p = .ok .cancel) ∧
     (t.history ≠ s.history → ∃ a, sends a))

/-- R32, R9: TERM_CODE fits ERR_WIDTH bits, kept by every step, whatever the transport's turn brings. -/
def Obligations.TermCodeFitsErrWidth : Prop :=
  ∀ s t : State, (∀ c, s.regs.termCode = some c → s.cfg.fitsErrWidth c = true) →
    step s = .next t → ∀ c, t.regs.termCode = some c → t.cfg.fitsErrWidth c = true

/-- R134: no step but a START on the port or the reset signal leaves DONE, and none changes a register
there but CANCEL. -/
def Obligations.DoneIsLeftOnlyByStartOrReset : Prop :=
  ∀ (n : ℕ) (s t : State), s.regs.ctrl = .done → (∀ slot ∈ s.schedule, slot.keepsSession = true) →
    runs n s t → t.regs = { s.regs with cancel := t.regs.cancel } ∧ t.history = s.history

/-- R131, R132: while every answer is BUSY, the block stays in SENDING and BACKOFF, and nothing but CTRL,
DEADLINE and CANCEL changes; every call carries the latched frame. -/
def Obligations.BusyRetryResendsTheIdenticalFrame : Prop :=
  ∀ (n : ℕ) (s t : State) (w : FrameWord), s.regs.frameBuf = some w →
    s.regs.ctrl = .sending ∨ s.regs.ctrl = .backoff →
    (∀ slot ∈ s.schedule, slot.notReset = true) → runs n s t →
    (∀ e ∈ t.history.drop s.history.length, e.answer = .busy) →
    (t.regs.ctrl = .sending ∨ t.regs.ctrl = .backoff) ∧
    t.regs = { s.regs with
      ctrl := t.regs.ctrl, deadline := t.regs.deadline, cancel := t.regs.cancel } ∧
    (∀ e ∈ t.history.drop s.history.length, e.data = frameOfWord w)

/-- R50, R122: once CANCEL is set in a run, no later step of the session ticks the sequencer or latches
a frame, whatever the order of the agents' turns. -/
def Obligations.AfterCancelNoFrameIsMade : Prop :=
  ∀ (n : ℕ) (s t : State),
    s.regs.ctrl = .ready ∨ s.regs.ctrl = .sending ∨ s.regs.ctrl = .backoff ∨ s.regs.ctrl = .pacing →
    s.regs.cancel = true → (∀ slot ∈ s.schedule, slot.keepsSession = true) → runs n s t →
    t.regs.toSeqState = s.regs.toSeqState ∧ t.regs.frameBuf = s.regs.frameBuf ∧
    t.regs.cancel = true ∧ (t.regs.ctrl = .done → t.regs.termReason = .cancelled ∨
      t.regs.termReason = .fatal)

/-- R123, R126: SENT_COUNT never passes the ceiling: kept by every step under any configuration with
one. -/
def Obligations.SentCountNeverPassesTheCeiling : Prop :=
  ∀ (s t : State) (m : BitVec 64), s.cfg.maxFrames = some m →
    (s.regs.sentCount.toNat ≤ m.toNat ∧
      (s.regs.ctrl = .sending ∨ s.regs.ctrl = .backoff → s.regs.sentCount.toNat < m.toNat)) →
    step s = .next t →
    t.regs.sentCount.toNat ≤ m.toNat ∧
      (t.regs.ctrl = .sending ∨ t.regs.ctrl = .backoff → t.regs.sentCount.toNat < m.toNat)

/-- R27, R126, R135: through a session SENT_COUNT is the number of sends the transport answered OK. -/
def Obligations.SentCountIsTheNumberOfOkAnswers : Prop :=
  ∀ (n : ℕ) (s t : State), n < 2 ^ 64 → s.regs.ctrl = .ready → s.regs.sentCount = 0 →
    (∀ slot ∈ s.schedule, slot.keepsSession = true) → runs n s t →
    t.regs.sentCount.toNat = (sentEvents (t.history.drop s.history.length)).length

/-- R133, R104: within a run the sequence nibbles of the frames answered OK count up by one modulo 16,
from the value the run's first tick emits, whatever retries and host commands come between. -/
def Obligations.SentSequenceNibblesAreConsecutive : Prop :=
  ∀ (n : ℕ) (s t : State), s.regs.ctrl = .ready →
    (∀ slot ∈ s.schedule, slot.keepsSession = true) → runs n s t →
    ∀ (k : ℕ) (e : SendEvent), (sentEvents (t.history.drop s.history.length))[k]? = some e →
      e.data.b4.toNat / 16 =
        (s.regs.seq.toNat + k + (if s.cfg.seqEmit = .pre then 0 else 1)) % 16
end

