-- ==== Sys2Proof/Laws/Codec.lean ====
section
/-!
SUPPORT. What the number conversions and the packing of a frame do, once: rounding, clamping, the ranges
of ENCODE's intermediate values (R93), and the fields of a frame as numbers.
-/

namespace Sys2Proof.Machine

/-! ### Rounding -/

theorem floor_eq (x : ℚ) : x.floor = ⌊x⌋ := rfl

/-- `round` lies within one half of its argument. -/
theorem roundRat_bounds (ties : RoundTies) (x : ℚ) :
    (roundRat ties x : ℚ) - 1 / 2 ≤ x ∧ x ≤ (roundRat ties x : ℚ) + 1 / 2 := by
  have h0 : (x.floor : ℚ) ≤ x := Int.floor_le x
  have h1 : x < (x.floor : ℚ) + 1 := Int.lt_floor_add_one x
  have ht : roundTie ties x x.floor = x.floor ∨ roundTie ties x x.floor = x.floor + 1 := by
    unfold roundTie
    cases ties <;> simp only <;> split_ifs <;> simp
  unfold roundRat
  split_ifs with ha hb
  · constructor <;> linarith
  · push_cast
    constructor <;> linarith
  · rcases ht with ht | ht <;> rw [ht] <;> push_cast <;> constructor <;> linarith

/-- A number strictly within one half of an integer rounds to it. -/
theorem roundRat_eq_of_near (ties : RoundTies) (x : ℚ) (k : ℤ) (h1 : (k : ℚ) - 1 / 2 < x)
    (h2 : x < (k : ℚ) + 1 / 2) : roundRat ties x = k := by
  obtain ⟨h3, h4⟩ := roundRat_bounds ties x
  have h5 : ((roundRat ties x : ℤ) : ℚ) < ((k + 1 : ℤ) : ℚ) := by push_cast; linarith
  have h6 : ((k : ℤ) : ℚ) < ((roundRat ties x + 1 : ℤ) : ℚ) := by push_cast; linarith
  have := Int.cast_lt.mp h5
  have := Int.cast_lt.mp h6
  omega

/-- `round` fixes integers. -/
theorem roundRat_intCast (ties : RoundTies) (k : ℤ) : roundRat ties (k : ℚ) = k :=
  roundRat_eq_of_near ties k k (by linarith) (by linarith)

/-- `round` is monotone against an integer bound from below. -/
theorem le_roundRat (ties : RoundTies) {x : ℚ} {k : ℤ} (h : (k : ℚ) ≤ x) : k ≤ roundRat ties x := by
  rcases h.lt_or_eq with h | h
  · have h4 := (roundRat_bounds ties x).2
    have : ((k : ℤ) : ℚ) < ((roundRat ties x + 1 : ℤ) : ℚ) := by push_cast; linarith
    have := Int.cast_lt.mp this
    omega
  · rw [← h, roundRat_intCast]

/-- `round` is monotone against an integer bound from above. -/
theorem roundRat_le (ties : RoundTies) {x : ℚ} {k : ℤ} (h : x ≤ (k : ℚ)) : roundRat ties x ≤ k := by
  rcases h.lt_or_eq with h | h
  · have h4 := (roundRat_bounds ties x).1
    have : ((roundRat ties x : ℤ) : ℚ) < ((k + 1 : ℤ) : ℚ) := by push_cast; linarith
    have := Int.cast_lt.mp this
    omega
  · rw [h, roundRat_intCast]

theorem quantRat_intCast (c : Cfg) (k : ℤ) : quantRat c (k : ℚ) = k := by
  unfold quantRat
  cases c.rateQuant
  · exact roundRat_intCast _ k
  · exact Int.floor_intCast (R := ℚ) k

theorem le_quantRat (c : Cfg) {x : ℚ} {k : ℤ} (h : (k : ℚ) ≤ x) : k ≤ quantRat c x := by
  unfold quantRat
  cases c.rateQuant
  · exact le_roundRat _ h
  · exact (Int.le_floor (a := x) (z := k)).mpr h

theorem quantRat_le (c : Cfg) {x : ℚ} {k : ℤ} (h : x ≤ (k : ℚ)) : quantRat c x ≤ k := by
  unfold quantRat
  cases c.rateQuant
  · exact roundRat_le _ h
  · have : ((x.floor : ℤ) : ℚ) ≤ ((k : ℤ) : ℚ) := (Int.floor_le x).trans h
    exact Int.cast_le.mp this

/-! ### Clamps -/

theorem clampRat_range {v lo hi : ℚ} (h : lo ≤ hi) : lo ≤ clampRat v lo hi ∧ clampRat v lo hi ≤ hi := by
  unfold clampRat
  split_ifs with h1 h2
  · exact ⟨le_refl _, h⟩
  · exact ⟨h, le_refl _⟩
  · exact ⟨not_lt.mp h1, not_lt.mp h2⟩

theorem clampRat_of_mem {v lo hi : ℚ} (h1 : lo ≤ v) (h2 : v ≤ hi) : clampRat v lo hi = v := by
  simp [clampRat, not_lt.mpr h1, not_lt.mpr h2]

theorem clampInt_range {v lo hi : ℤ} (h : lo ≤ hi) : lo ≤ clampInt v lo hi ∧ clampInt v lo hi ≤ hi := by
  unfold clampInt
  split_ifs <;> omega

theorem clampInt_of_mem {v lo hi : ℤ} (h1 : lo ≤ v) (h2 : v ≤ hi) : clampInt v lo hi = v := by
  simp [clampInt, not_lt.mpr h1, not_lt.mpr h2]

/-- `raw ∈ [−32768, 32767]` (R83, R93). -/
theorem rawAngle_range (c : Cfg) (a : ℚ) : -32768 ≤ rawAngle c a ∧ rawAngle c a ≤ 32767 := by
  obtain ⟨h1, h2⟩ := clampRat_range (v := a) (lo := -32768 / 10) (hi := 32767 / 10) (by norm_num)
  constructor
  · apply le_roundRat
    unfold clampAngle
    push_cast
    linarith
  · apply roundRat_le
    unfold clampAngle
    push_cast
    linarith

/-- The rate byte's number is in [0, 255] (R80, R93). -/
theorem rateNumber_range (c : Cfg) (r : ℚ) : 0 ≤ rateNumber c r ∧ rateNumber c r ≤ 255 := by
  obtain ⟨h1, h2⟩ := clampRat_range (v := r) (lo := 0) (hi := 255) (by norm_num)
  refine ⟨le_quantRat c ?_, quantRat_le c ?_⟩
  · simpa [clampRate] using h1
  · simpa [clampRate] using h2

/-! ### Fields of a frame as numbers -/

theorem toNat_ofInt_of_mem {w : Nat} {k : ℤ} (h0 : 0 ≤ k) (h1 : k < 2 ^ w) :
    ((BitVec.ofInt w k).toNat : ℤ) = k := by
  rw [BitVec.toNat_ofInt, Int.toNat_of_nonneg (Int.emod_nonneg _ (by positivity))]
  apply Int.emod_eq_of_lt h0
  push_cast
  exact h1

theorem angle_bytes_toNat (u : BitVec 16) :
    (angleLow u).toNat + 256 * (angleHigh u).toNat = u.toNat := by
  simp only [angleLow, angleHigh, BitVec.extractLsb'_toNat, Nat.shiftRight_eq_div_pow]
  have := u.isLt
  omega

theorem rawWord_toNat {raw : ℤ} (h1 : -32768 ≤ raw) (h2 : raw ≤ 32767) :
    ((rawWord raw).toNat : ℤ) = if raw < 0 then raw + 65536 else raw := by
  unfold rawWord
  rw [BitVec.toNat_ofInt, Int.toNat_of_nonneg (Int.emod_nonneg _ (by norm_num))]
  split_ifs <;> norm_num <;> omega

theorem rawWord_toInt {raw : ℤ} (h1 : -32768 ≤ raw) (h2 : raw ≤ 32767) : (rawWord raw).toInt = raw := by
  unfold rawWord
  rw [BitVec.toInt_ofInt, Int.bmod_def]
  norm_num
  split_ifs <;> omega

theorem angle_append (u : BitVec 16) : angleHigh u ++ angleLow u = u := by
  apply BitVec.eq_of_toNat_eq
  rw [BitVec.toNat_append, ← Nat.shiftLeft_add_eq_or_of_lt (angleLow u).isLt, Nat.shiftLeft_eq]
  have := angle_bytes_toNat u
  omega

theorem signedRaw_angle (u : BitVec 16) : signedRaw (angleLow u) (angleHigh u) = u.toInt := by
  rw [signedRaw, angle_append]

theorem append_toNat (hi lo : Nibble) : (hi ++ lo : Byte).toNat = 16 * hi.toNat + lo.toNat := by
  rw [BitVec.toNat_append, ← Nat.shiftLeft_add_eq_or_of_lt lo.isLt, Nat.shiftLeft_eq]
  omega

theorem byte_append_toNat (hi lo : Byte) : (hi ++ lo).toNat = 256 * hi.toNat + lo.toNat := by
  rw [BitVec.toNat_append, ← Nat.shiftLeft_add_eq_or_of_lt lo.isLt, Nat.shiftLeft_eq]
  omega

theorem lowNibble_toNat (b : Byte) : (b.extractLsb' 0 4).toNat = b.toNat % 16 := by
  simp [BitVec.extractLsb'_toNat]

theorem highNibble_toNat (b : Byte) : (b.extractLsb' 4 4).toNat = b.toNat / 16 := by
  simp only [BitVec.extractLsb'_toNat, Nat.shiftRight_eq_div_pow]
  have := b.isLt
  omega

theorem lowNibble_append (hi lo : Nibble) : (hi ++ lo : Byte).extractLsb' 0 4 = lo := by
  apply BitVec.eq_of_toNat_eq
  rw [lowNibble_toNat, append_toNat]
  have := lo.isLt
  omega

theorem highNibble_append (hi lo : Nibble) : (hi ++ lo : Byte).extractLsb' 4 4 = hi := by
  apply BitVec.eq_of_toNat_eq
  rw [highNibble_toNat, append_toNat]
  have := lo.isLt
  omega

theorem checksumOf_toNat (b0 b1 b2 b3 : Byte) :
    (checksumOf b0 b1 b2 b3).toNat = (b0 ^^^ b1 ^^^ b2 ^^^ b3).toNat % 16 :=
  lowNibble_toNat _

theorem signedRaw_eq (b0 b1 : Byte) :
    signedRaw b0 b1 =
      if 32768 ≤ ((b0.toNat : ℤ) + 256 * b1.toNat) then (b0.toNat : ℤ) + 256 * b1.toNat - 65536
      else (b0.toNat : ℤ) + 256 * b1.toNat := by
  unfold signedRaw
  rw [BitVec.toInt_eq_toNat_cond, byte_append_toNat]
  have := b0.isLt
  have := b1.isLt
  split_ifs <;> push_cast <;> omega

theorem signedRaw_range (b0 b1 : Byte) : -32768 ≤ signedRaw b0 b1 ∧ signedRaw b0 b1 ≤ 32767 := by
  rw [signedRaw_eq]
  have := b0.isLt
  have := b1.isLt
  split_ifs <;> omega

theorem or_eq_zero (a b : Byte) : a ||| b = 0 ↔ a = 0 ∧ b = 0 := BitVec.or_eq_zero_iff

theorem rsvNz_iff (f : WireFrame) : rsvNz f = true ↔ f.b5 ≠ 0 ∨ f.b6 ≠ 0 ∨ f.b7 ≠ 0 := by
  unfold rsvNz
  rw [bne_iff_ne, ne_eq, or_eq_zero, or_eq_zero, not_and_or, not_and_or, or_assoc]

theorem csOk_iff (f : WireFrame) : csOk f = true ↔ storedChecksum f = chk f := by
  simp [csOk]

theorem frameWellFormed_iff (f : WireFrame) :
    frameWellFormed f = true ↔ storedChecksum f = chk f ∧ f.b5 = 0 ∧ f.b6 = 0 ∧ f.b7 = 0 := by
  rw [frameWellFormed, Bool.and_eq_true, csOk_iff, Bool.not_eq_true', Bool.eq_false_iff, ne_eq, rsvNz_iff]
  tauto

theorem packFrame_storedChecksum (u : BitVec 16) (r st : Byte) (q : Nibble) :
    storedChecksum (packFrame u r st q) = chk (packFrame u r st q) := lowNibble_append _ _

theorem packFrame_storedSequence (u : BitVec 16) (r st : Byte) (q : Nibble) :
    storedSequence (packFrame u r st q) = q := highNibble_append _ _

theorem packFrame_wellFormed (u : BitVec 16) (r st : Byte) (q : Nibble) :
    frameWellFormed (packFrame u r st q) = true :=
  (frameWellFormed_iff _).mpr ⟨packFrame_storedChecksum u r st q, rfl, rfl, rfl⟩

theorem encodeFrame_wellFormed (c : Cfg) (smp : SignalSample) :
    frameWellFormed (encodeFrame c smp) = true := packFrame_wellFormed _ _ _ _

/-! ### The frame word (R41) -/

theorem append_low {n : Nat} (hi : BitVec n) (lo : Byte) : (hi ++ lo).extractLsb' 0 8 = lo := by
  ext i h
  simp [BitVec.getLsbD_append, h]

theorem append_above {n k : Nat} (hi : BitVec n) (lo : Byte) (h : 8 ≤ k) :
    (hi ++ lo).extractLsb' k 8 = hi.extractLsb' (k - 8) 8 := by
  ext i hi'
  simp only [BitVec.getElem_extractLsb', BitVec.getLsbD_append]
  rw [if_neg (by omega)]
  congr 1
  omega

theorem frameOfWord_frameWord (f : WireFrame) : frameOfWord (frameWord f) = f := by
  obtain ⟨b0, b1, b2, b3, b4, b5, b6, b7⟩ := f
  simp [frameOfWord, frameWord, append_above, append_low]

end Sys2Proof.Machine
end

