-- ==== Sys2Proof/Laws/State.lean ====
section
/-!
SUPPORT. One lemma for each field of State after each single-field write, and for each register after
each register write of a session, true by rfl: later proofs need not unfold a record update.
-/

namespace Sys2Proof.Machine

/-! ### `State.setRegs` -/

@[simp] theorem State.setRegs_cfg (s : State) (r : Regs) : (s.setRegs r).cfg = s.cfg := rfl
@[simp] theorem State.setRegs_regs (s : State) (r : Regs) : (s.setRegs r).regs = r := rfl
@[simp] theorem State.setRegs_history (s : State) (r : Regs) : (s.setRegs r).history = s.history := rfl
@[simp] theorem State.setRegs_outcome (s : State) (r : Regs) : (s.setRegs r).outcome = s.outcome := rfl
@[simp] theorem State.setRegs_now (s : State) (r : Regs) : (s.setRegs r).now = s.now := rfl
@[simp] theorem State.setRegs_sendResult (s : State) (r : Regs) : (s.setRegs r).sendResult = s.sendResult := rfl
@[simp] theorem State.setRegs_schedule (s : State) (r : Regs) : (s.setRegs r).schedule = s.schedule := rfl
@[simp] theorem State.setRegs_turn (s : State) (r : Regs) : (s.setRegs r).turn = s.turn := rfl

/-! ### `State.setOutcome` -/

@[simp] theorem State.setOutcome_cfg (s : State) (o : StepOutcome) : (s.setOutcome o).cfg = s.cfg := rfl
@[simp] theorem State.setOutcome_regs (s : State) (o : StepOutcome) : (s.setOutcome o).regs = s.regs := rfl
@[simp] theorem State.setOutcome_history (s : State) (o : StepOutcome) : (s.setOutcome o).history = s.history := rfl
@[simp] theorem State.setOutcome_outcome (s : State) (o : StepOutcome) : (s.setOutcome o).outcome = o := rfl
@[simp] theorem State.setOutcome_now (s : State) (o : StepOutcome) : (s.setOutcome o).now = s.now := rfl
@[simp] theorem State.setOutcome_sendResult (s : State) (o : StepOutcome) : (s.setOutcome o).sendResult = s.sendResult := rfl
@[simp] theorem State.setOutcome_schedule (s : State) (o : StepOutcome) : (s.setOutcome o).schedule = s.schedule := rfl
@[simp] theorem State.setOutcome_turn (s : State) (o : StepOutcome) : (s.setOutcome o).turn = s.turn := rfl

/-! ### `State.addEvent` -/

@[simp] theorem State.addEvent_cfg (s : State) (e : SendEvent) : (s.addEvent e).cfg = s.cfg := rfl
@[simp] theorem State.addEvent_regs (s : State) (e : SendEvent) : (s.addEvent e).regs = s.regs := rfl
@[simp] theorem State.addEvent_history (s : State) (e : SendEvent) : (s.addEvent e).history = s.history ++ [e] := rfl
@[simp] theorem State.addEvent_outcome (s : State) (e : SendEvent) : (s.addEvent e).outcome = s.outcome := rfl
@[simp] theorem State.addEvent_now (s : State) (e : SendEvent) : (s.addEvent e).now = s.now := rfl
@[simp] theorem State.addEvent_sendResult (s : State) (e : SendEvent) : (s.addEvent e).sendResult = s.sendResult := rfl
@[simp] theorem State.addEvent_schedule (s : State) (e : SendEvent) : (s.addEvent e).schedule = s.schedule := rfl
@[simp] theorem State.addEvent_turn (s : State) (e : SendEvent) : (s.addEvent e).turn = s.turn := rfl

/-! ### `State.dropTurn` -/

@[simp] theorem State.dropTurn_cfg (s : State) (rest : List Slot) : (s.dropTurn rest).cfg = s.cfg := rfl
@[simp] theorem State.dropTurn_regs (s : State) (rest : List Slot) : (s.dropTurn rest).regs = s.regs := rfl
@[simp] theorem State.dropTurn_history (s : State) (rest : List Slot) : (s.dropTurn rest).history = s.history := rfl
@[simp] theorem State.dropTurn_outcome (s : State) (rest : List Slot) : (s.dropTurn rest).outcome = s.outcome := rfl
@[simp] theorem State.dropTurn_now (s : State) (rest : List Slot) : (s.dropTurn rest).now = s.now := rfl
@[simp] theorem State.dropTurn_sendResult (s : State) (rest : List Slot) : (s.dropTurn rest).sendResult = s.sendResult := rfl
@[simp] theorem State.dropTurn_schedule (s : State) (rest : List Slot) : (s.dropTurn rest).schedule = rest := rfl
@[simp] theorem State.dropTurn_turn (s : State) (rest : List Slot) : (s.dropTurn rest).turn = s.turn + 1 := rfl

/-! ### `State.setNow` -/

@[simp] theorem State.setNow_cfg (s : State) (t : Timestamp) : (s.setNow t).cfg = s.cfg := rfl
@[simp] theorem State.setNow_regs (s : State) (t : Timestamp) : (s.setNow t).regs = s.regs := rfl
@[simp] theorem State.setNow_history (s : State) (t : Timestamp) : (s.setNow t).history = s.history := rfl
@[simp] theorem State.setNow_outcome (s : State) (t : Timestamp) : (s.setNow t).outcome = s.outcome := rfl
@[simp] theorem State.setNow_now (s : State) (t : Timestamp) : (s.setNow t).now = t := rfl
@[simp] theorem State.setNow_sendResult (s : State) (t : Timestamp) : (s.setNow t).sendResult = s.sendResult := rfl
@[simp] theorem State.setNow_schedule (s : State) (t : Timestamp) : (s.setNow t).schedule = s.schedule := rfl
@[simp] theorem State.setNow_turn (s : State) (t : Timestamp) : (s.setNow t).turn = s.turn := rfl

/-! ### `State.setSendResult` -/

@[simp] theorem State.setSendResult_cfg (s : State) (r : SendResult) : (s.setSendResult r).cfg = s.cfg := rfl
@[simp] theorem State.setSendResult_regs (s : State) (r : SendResult) : (s.setSendResult r).regs = s.regs := rfl
@[simp] theorem State.setSendResult_history (s : State) (r : SendResult) : (s.setSendResult r).history = s.history := rfl
@[simp] theorem State.setSendResult_outcome (s : State) (r : SendResult) : (s.setSendResult r).outcome = s.outcome := rfl
@[simp] theorem State.setSendResult_now (s : State) (r : SendResult) : (s.setSendResult r).now = s.now := rfl
@[simp] theorem State.setSendResult_sendResult (s : State) (r : SendResult) : (s.setSendResult r).sendResult = r := rfl
@[simp] theorem State.setSendResult_schedule (s : State) (r : SendResult) : (s.setSendResult r).schedule = s.schedule := rfl
@[simp] theorem State.setSendResult_turn (s : State) (r : SendResult) : (s.setSendResult r).turn = s.turn := rfl

/-! ### `respond` -/

@[simp] theorem respond_cfg (p : Payload) (s : State) : (respond p s).cfg = s.cfg := rfl
@[simp] theorem respond_regs (p : Payload) (s : State) : (respond p s).regs = s.regs := rfl
@[simp] theorem respond_history (p : Payload) (s : State) : (respond p s).history = s.history := rfl
@[simp] theorem respond_outcome (p : Payload) (s : State) : (respond p s).outcome = .response (.ok p) := rfl
@[simp] theorem respond_now (p : Payload) (s : State) : (respond p s).now = s.now := rfl
@[simp] theorem respond_sendResult (p : Payload) (s : State) : (respond p s).sendResult = s.sendResult := rfl
@[simp] theorem respond_schedule (p : Payload) (s : State) : (respond p s).schedule = s.schedule := rfl
@[simp] theorem respond_turn (p : Payload) (s : State) : (respond p s).turn = s.turn := rfl

/-! ### `raise` -/

@[simp] theorem raise_cfg (e : CommandError) (s : State) : (raise e s).cfg = s.cfg := rfl
@[simp] theorem raise_regs (e : CommandError) (s : State) : (raise e s).regs = s.regs := rfl
@[simp] theorem raise_history (e : CommandError) (s : State) : (raise e s).history = s.history := rfl
@[simp] theorem raise_outcome (e : CommandError) (s : State) : (raise e s).outcome = .response (.error e) := rfl
@[simp] theorem raise_now (e : CommandError) (s : State) : (raise e s).now = s.now := rfl
@[simp] theorem raise_sendResult (e : CommandError) (s : State) : (raise e s).sendResult = s.sendResult := rfl
@[simp] theorem raise_schedule (e : CommandError) (s : State) : (raise e s).schedule = s.schedule := rfl
@[simp] theorem raise_turn (e : CommandError) (s : State) : (raise e s).turn = s.turn := rfl

/-! ### `moved` -/

@[simp] theorem moved_cfg (s : State) : (moved s).cfg = s.cfg := rfl
@[simp] theorem moved_regs (s : State) : (moved s).regs = s.regs := rfl
@[simp] theorem moved_history (s : State) : (moved s).history = s.history := rfl
@[simp] theorem moved_outcome (s : State) : (moved s).outcome = .moved := rfl
@[simp] theorem moved_now (s : State) : (moved s).now = s.now := rfl
@[simp] theorem moved_sendResult (s : State) : (moved s).sendResult = s.sendResult := rfl
@[simp] theorem moved_schedule (s : State) : (moved s).schedule = s.schedule := rfl
@[simp] theorem moved_turn (s : State) : (moved s).turn = s.turn := rfl

/-! ### `stuck` -/

@[simp] theorem stuck_cfg (s : State) : (stuck s).cfg = s.cfg := rfl
@[simp] theorem stuck_regs (s : State) : (stuck s).regs = s.regs := rfl
@[simp] theorem stuck_history (s : State) : (stuck s).history = s.history := rfl
@[simp] theorem stuck_outcome (s : State) : (stuck s).outcome = .stuck := rfl
@[simp] theorem stuck_now (s : State) : (stuck s).now = s.now := rfl
@[simp] theorem stuck_sendResult (s : State) : (stuck s).sendResult = s.sendResult := rfl
@[simp] theorem stuck_schedule (s : State) : (stuck s).schedule = s.schedule := rfl
@[simp] theorem stuck_turn (s : State) : (stuck s).turn = s.turn := rfl

/-! ### `resetSignal` -/

@[simp] theorem resetSignal_cfg (s : State) : (resetSignal s).cfg = s.cfg := rfl
@[simp] theorem resetSignal_regs (s : State) : (resetSignal s).regs = Regs.reset := rfl
@[simp] theorem resetSignal_history (s : State) : (resetSignal s).history = s.history := rfl
@[simp] theorem resetSignal_outcome (s : State) : (resetSignal s).outcome = .none := rfl
@[simp] theorem resetSignal_now (s : State) : (resetSignal s).now = s.now := rfl
@[simp] theorem resetSignal_sendResult (s : State) : (resetSignal s).sendResult = s.sendResult := rfl
@[simp] theorem resetSignal_schedule (s : State) : (resetSignal s).schedule = s.schedule := rfl
@[simp] theorem resetSignal_turn (s : State) : (resetSignal s).turn = s.turn := rfl

/-! ### `startSession` -/

@[simp] theorem startSession_toSeqState (run : Bool) (now : Timestamp) (r : Regs) : (startSession run now r).toSeqState = ⟨.steeringLeft, some now, 0, true⟩ := rfl
@[simp] theorem startSession_ctrl (run : Bool) (now : Timestamp) (r : Regs) : (startSession run now r).ctrl = if run then .ready else .manual := rfl
@[simp] theorem startSession_sentCount (run : Bool) (now : Timestamp) (r : Regs) : (startSession run now r).sentCount = 0 := rfl
@[simp] theorem startSession_sessionStart (run : Bool) (now : Timestamp) (r : Regs) : (startSession run now r).sessionStart = some now := rfl
@[simp] theorem startSession_frameBuf (run : Bool) (now : Timestamp) (r : Regs) : (startSession run now r).frameBuf = r.frameBuf := rfl
@[simp] theorem startSession_deadline (run : Bool) (now : Timestamp) (r : Regs) : (startSession run now r).deadline = r.deadline := rfl
@[simp] theorem startSession_termReason (run : Bool) (now : Timestamp) (r : Regs) : (startSession run now r).termReason = .none := rfl
@[simp] theorem startSession_termCode (run : Bool) (now : Timestamp) (r : Regs) : (startSession run now r).termCode = none := rfl
@[simp] theorem startSession_cancel (run : Bool) (now : Timestamp) (r : Regs) : (startSession run now r).cancel = false := rfl

/-! ### `endRun` -/

@[simp] theorem endRun_toSeqState (reason : TermReason) (r : Regs) : (endRun reason r).toSeqState = r.toSeqState := rfl
@[simp] theorem endRun_ctrl (reason : TermReason) (r : Regs) : (endRun reason r).ctrl = .done := rfl
@[simp] theorem endRun_sentCount (reason : TermReason) (r : Regs) : (endRun reason r).sentCount = r.sentCount := rfl
@[simp] theorem endRun_sessionStart (reason : TermReason) (r : Regs) : (endRun reason r).sessionStart = r.sessionStart := rfl
@[simp] theorem endRun_frameBuf (reason : TermReason) (r : Regs) : (endRun reason r).frameBuf = r.frameBuf := rfl
@[simp] theorem endRun_deadline (reason : TermReason) (r : Regs) : (endRun reason r).deadline = r.deadline := rfl
@[simp] theorem endRun_termReason (reason : TermReason) (r : Regs) : (endRun reason r).termReason = reason := rfl
@[simp] theorem endRun_termCode (reason : TermReason) (r : Regs) : (endRun reason r).termCode = r.termCode := rfl
@[simp] theorem endRun_cancel (reason : TermReason) (r : Regs) : (endRun reason r).cancel = r.cancel := rfl

/-! ### `fatalAbort` -/

@[simp] theorem fatalAbort_toSeqState (code : ErrorCode) (r : Regs) : (fatalAbort code r).toSeqState = r.toSeqState := rfl
@[simp] theorem fatalAbort_ctrl (code : ErrorCode) (r : Regs) : (fatalAbort code r).ctrl = .done := rfl
@[simp] theorem fatalAbort_sentCount (code : ErrorCode) (r : Regs) : (fatalAbort code r).sentCount = r.sentCount := rfl
@[simp] theorem fatalAbort_sessionStart (code : ErrorCode) (r : Regs) : (fatalAbort code r).sessionStart = r.sessionStart := rfl
@[simp] theorem fatalAbort_frameBuf (code : ErrorCode) (r : Regs) : (fatalAbort code r).frameBuf = r.frameBuf := rfl
@[simp] theorem fatalAbort_deadline (code : ErrorCode) (r : Regs) : (fatalAbort code r).deadline = r.deadline := rfl
@[simp] theorem fatalAbort_termReason (code : ErrorCode) (r : Regs) : (fatalAbort code r).termReason = .fatal := rfl
@[simp] theorem fatalAbort_termCode (code : ErrorCode) (r : Regs) : (fatalAbort code r).termCode = some code := rfl
@[simp] theorem fatalAbort_cancel (code : ErrorCode) (r : Regs) : (fatalAbort code r).cancel = r.cancel := rfl

/-! ### `commitTick` -/

@[simp] theorem commitTick_toSeqState (st : SeqState) (r : Regs) : (commitTick st r).toSeqState = st := rfl
@[simp] theorem commitTick_ctrl (st : SeqState) (r : Regs) : (commitTick st r).ctrl = r.ctrl := rfl
@[simp] theorem commitTick_sentCount (st : SeqState) (r : Regs) : (commitTick st r).sentCount = r.sentCount := rfl
@[simp] theorem commitTick_sessionStart (st : SeqState) (r : Regs) : (commitTick st r).sessionStart = r.sessionStart := rfl
@[simp] theorem commitTick_frameBuf (st : SeqState) (r : Regs) : (commitTick st r).frameBuf = r.frameBuf := rfl
@[simp] theorem commitTick_deadline (st : SeqState) (r : Regs) : (commitTick st r).deadline = r.deadline := rfl
@[simp] theorem commitTick_termReason (st : SeqState) (r : Regs) : (commitTick st r).termReason = r.termReason := rfl
@[simp] theorem commitTick_termCode (st : SeqState) (r : Regs) : (commitTick st r).termCode = r.termCode := rfl
@[simp] theorem commitTick_cancel (st : SeqState) (r : Regs) : (commitTick st r).cancel = r.cancel := rfl

/-! ### `latchFrame` -/

@[simp] theorem latchFrame_toSeqState (w : FrameWord) (r : Regs) : (latchFrame w r).toSeqState = r.toSeqState := rfl
@[simp] theorem latchFrame_ctrl (w : FrameWord) (r : Regs) : (latchFrame w r).ctrl = .sending := rfl
@[simp] theorem latchFrame_sentCount (w : FrameWord) (r : Regs) : (latchFrame w r).sentCount = r.sentCount := rfl
@[simp] theorem latchFrame_sessionStart (w : FrameWord) (r : Regs) : (latchFrame w r).sessionStart = r.sessionStart := rfl
@[simp] theorem latchFrame_frameBuf (w : FrameWord) (r : Regs) : (latchFrame w r).frameBuf = some w := rfl
@[simp] theorem latchFrame_deadline (w : FrameWord) (r : Regs) : (latchFrame w r).deadline = r.deadline := rfl
@[simp] theorem latchFrame_termReason (w : FrameWord) (r : Regs) : (latchFrame w r).termReason = r.termReason := rfl
@[simp] theorem latchFrame_termCode (w : FrameWord) (r : Regs) : (latchFrame w r).termCode = r.termCode := rfl
@[simp] theorem latchFrame_cancel (w : FrameWord) (r : Regs) : (latchFrame w r).cancel = r.cancel := rfl

/-! ### `enterWait` -/

@[simp] theorem enterWait_toSeqState (c : Ctrl) (t : Timestamp) (r : Regs) : (enterWait c t r).toSeqState = r.toSeqState := rfl
@[simp] theorem enterWait_ctrl (c : Ctrl) (t : Timestamp) (r : Regs) : (enterWait c t r).ctrl = c := rfl
@[simp] theorem enterWait_sentCount (c : Ctrl) (t : Timestamp) (r : Regs) : (enterWait c t r).sentCount = r.sentCount := rfl
@[simp] theorem enterWait_sessionStart (c : Ctrl) (t : Timestamp) (r : Regs) : (enterWait c t r).sessionStart = r.sessionStart := rfl
@[simp] theorem enterWait_frameBuf (c : Ctrl) (t : Timestamp) (r : Regs) : (enterWait c t r).frameBuf = r.frameBuf := rfl
@[simp] theorem enterWait_deadline (c : Ctrl) (t : Timestamp) (r : Regs) : (enterWait c t r).deadline = some t := rfl
@[simp] theorem enterWait_termReason (c : Ctrl) (t : Timestamp) (r : Regs) : (enterWait c t r).termReason = r.termReason := rfl
@[simp] theorem enterWait_termCode (c : Ctrl) (t : Timestamp) (r : Regs) : (enterWait c t r).termCode = r.termCode := rfl
@[simp] theorem enterWait_cancel (c : Ctrl) (t : Timestamp) (r : Regs) : (enterWait c t r).cancel = r.cancel := rfl

/-! ### `setCtrl` -/

@[simp] theorem setCtrl_toSeqState (c : Ctrl) (r : Regs) : (setCtrl c r).toSeqState = r.toSeqState := rfl
@[simp] theorem setCtrl_ctrl (c : Ctrl) (r : Regs) : (setCtrl c r).ctrl = c := rfl
@[simp] theorem setCtrl_sentCount (c : Ctrl) (r : Regs) : (setCtrl c r).sentCount = r.sentCount := rfl
@[simp] theorem setCtrl_sessionStart (c : Ctrl) (r : Regs) : (setCtrl c r).sessionStart = r.sessionStart := rfl
@[simp] theorem setCtrl_frameBuf (c : Ctrl) (r : Regs) : (setCtrl c r).frameBuf = r.frameBuf := rfl
@[simp] theorem setCtrl_deadline (c : Ctrl) (r : Regs) : (setCtrl c r).deadline = r.deadline := rfl
@[simp] theorem setCtrl_termReason (c : Ctrl) (r : Regs) : (setCtrl c r).termReason = r.termReason := rfl
@[simp] theorem setCtrl_termCode (c : Ctrl) (r : Regs) : (setCtrl c r).termCode = r.termCode := rfl
@[simp] theorem setCtrl_cancel (c : Ctrl) (r : Regs) : (setCtrl c r).cancel = r.cancel := rfl

/-! ### `setSentCount` -/

@[simp] theorem setSentCount_toSeqState (n : BitVec 64) (r : Regs) : (setSentCount n r).toSeqState = r.toSeqState := rfl
@[simp] theorem setSentCount_ctrl (n : BitVec 64) (r : Regs) : (setSentCount n r).ctrl = r.ctrl := rfl
@[simp] theorem setSentCount_sentCount (n : BitVec 64) (r : Regs) : (setSentCount n r).sentCount = n := rfl
@[simp] theorem setSentCount_sessionStart (n : BitVec 64) (r : Regs) : (setSentCount n r).sessionStart = r.sessionStart := rfl
@[simp] theorem setSentCount_frameBuf (n : BitVec 64) (r : Regs) : (setSentCount n r).frameBuf = r.frameBuf := rfl
@[simp] theorem setSentCount_deadline (n : BitVec 64) (r : Regs) : (setSentCount n r).deadline = r.deadline := rfl
@[simp] theorem setSentCount_termReason (n : BitVec 64) (r : Regs) : (setSentCount n r).termReason = r.termReason := rfl
@[simp] theorem setSentCount_termCode (n : BitVec 64) (r : Regs) : (setSentCount n r).termCode = r.termCode := rfl
@[simp] theorem setSentCount_cancel (n : BitVec 64) (r : Regs) : (setSentCount n r).cancel = r.cancel := rfl

/-! ### `setCancel` -/

@[simp] theorem setCancel_toSeqState (r : Regs) : (setCancel r).toSeqState = r.toSeqState := rfl
@[simp] theorem setCancel_ctrl (r : Regs) : (setCancel r).ctrl = r.ctrl := rfl
@[simp] theorem setCancel_sentCount (r : Regs) : (setCancel r).sentCount = r.sentCount := rfl
@[simp] theorem setCancel_sessionStart (r : Regs) : (setCancel r).sessionStart = r.sessionStart := rfl
@[simp] theorem setCancel_frameBuf (r : Regs) : (setCancel r).frameBuf = r.frameBuf := rfl
@[simp] theorem setCancel_deadline (r : Regs) : (setCancel r).deadline = r.deadline := rfl
@[simp] theorem setCancel_termReason (r : Regs) : (setCancel r).termReason = r.termReason := rfl
@[simp] theorem setCancel_termCode (r : Regs) : (setCancel r).termCode = r.termCode := rfl
@[simp] theorem setCancel_cancel (r : Regs) : (setCancel r).cancel = true := rfl

end Sys2Proof.Machine
end

