-- ==== Sys2Proof/Laws/Ops.lean ====
section
/-!
SUPPORT. What the shared operations do, once: the exact sums, the ceiling, the READ map, the transport's
classification, and which command or step a turn fetches.
-/

namespace Sys2Proof.Machine

/-! ### Time and count -/

theorem deadlineAfter_exact (s : State) (w : BitVec 32) (h : s.now.toNat + w.toNat < 2 ^ 64) :
    deadlineAfter s w = BitVec.ofNat 64 (s.now.toNat + w.toNat) := if_pos h

theorem sentCountAfter_exact (s : State) (h : s.regs.sentCount.toNat + 1 < 2 ^ 64) :
    (sentCountAfter s).toNat = s.regs.sentCount.toNat + 1 := by
  rw [sentCountAfter, if_pos h, BitVec.toNat_add]
  exact Nat.mod_eq_of_lt h

theorem ceilingReached_iff (c : Cfg) (n : BitVec 64) :
    ceilingReached c n = true ↔ ∃ m, c.maxFrames = some m ∧ m.toNat ≤ n.toNat := by
  unfold ceilingReached
  cases c.maxFrames <;> simp

theorem elapsed_eq_max (entry now : Timestamp) :
    ((now.toNat - entry.toNat : ℕ) : ℤ) = max 0 ((now.toNat : ℤ) - entry.toNat) := by
  omega

/-! ### Reads that may meet a register with no value -/

theorem entryTimeRead_some (s : State) (t : Timestamp) (h : s.regs.entryTime = some t) :
    entryTimeRead s = t := by simp [entryTimeRead, h]

theorem frameBufRead_some (s : State) (w : FrameWord) (h : s.regs.frameBuf = some w) :
    frameBufRead s = w := by simp [frameBufRead, h]

theorem deadlineRead_some (s : State) (t : Timestamp) (h : s.regs.deadline = some t) :
    deadlineRead s = t := by simp [deadlineRead, h]

/-- A register number above 11 names no register (R36). -/
theorem readRegister_reserved (r : Regs) (reg : Nat) (h : 12 ≤ reg) :
    readRegister r reg = .error .illegalRegister := by
  obtain ⟨k, rfl⟩ := Nat.exists_eq_add_of_le' h
  rfl

/-! ### The transport's answers (R137) -/

/-- A code the block takes is `ERR_WIDTH` bits wide (R9, R32). -/
theorem errorCodeOf_fits (c : Cfg) (n : Nat) : c.fitsErrWidth (errorCodeOf c n) = true :=
  decide_eq_true (Nat.mod_lt n (Nat.two_pow_pos c.errWidth))

/-- A code of that width is taken unchanged (R9). -/
theorem errorCodeOf_of_fits (c : Cfg) (n : Nat) (h : c.fitsErrWidth n = true) :
    errorCodeOf c n = n := Nat.mod_eq_of_lt (of_decide_eq_true h)

theorem classify_ok (c : Cfg) (r : SendResult) : classify c r = .ok ↔ r = .ok := by
  cases r with
  | ok => simp [classify]
  | err n =>
    simp only [classify]
    split_ifs <;> simp

theorem classify_busy (c : Cfg) (r : SendResult) :
    classify c r = .busy ↔ ∃ n, r = .err n ∧ errorCodeOf c n = errorCodeOf c c.busyCode := by
  cases r with
  | ok => simp [classify]
  | err n =>
    simp only [classify]
    split_ifs with h <;> simp [h]

theorem classify_fatal (c : Cfg) (r : SendResult) (e : ErrorCode) :
    classify c r = .fatal e ↔
      ∃ n, r = .err n ∧ e = errorCodeOf c n ∧ e ≠ errorCodeOf c c.busyCode := by
  cases r with
  | ok => simp [classify]
  | err n =>
    simp only [classify, SendResult.err.injEq, exists_eq_left']
    split_ifs with h
    · simp only [false_iff, not_and, not_not]
      rintro rfl
      exact h
    · simp only [SendAnswer.fatal.injEq]
      constructor
      · rintro rfl
        exact ⟨rfl, h⟩
      · exact fun he => he.1.symm

/-- A fatal answer carries a code of `ERR_WIDTH` bits. -/
theorem classify_fatal_fits (c : Cfg) (r : SendResult) (e : ErrorCode)
    (h : classify c r = .fatal e) : c.fitsErrWidth e = true := by
  obtain ⟨n, -, rfl, -⟩ := (classify_fatal c r e).mp h
  exact errorCodeOf_fits c n

/-! ### Fetch -/

theorem controllerStep_isInternal (c : Ctrl) (i : Instr) (h : controllerStep c = some i) :
    i.isInternal = true := by
  cases c <;> simp only [controllerStep, reduceCtorEq, Option.some.injEq] at h <;> subst h <;> rfl

theorem classBit_eq (w : CommandWord) : CommandWord.classBit w = decide (128 ≤ w.toNat) := by
  revert w
  decide

theorem operation_toNat (w : CommandWord) : (CommandWord.operation w).toNat = w.toNat % 16 := by
  simp [CommandWord.operation, BitVec.extractLsb'_toNat]

theorem modifier_toNat (w : CommandWord) : (CommandWord.modifier w).toNat = w.toNat / 16 % 8 := by
  simp [CommandWord.modifier, BitVec.extractLsb'_toNat, Nat.shiftRight_eq_div_pow]

theorem startReserved_toNat (w : CommandWord) :
    (CommandWord.startReserved w).toNat = w.toNat / 32 % 4 := by
  simp [CommandWord.startReserved, BitVec.extractLsb'_toNat, Nat.shiftRight_eq_div_pow]

/-- What the port accepts: a class 0 word that decodes (R70, R71). -/
theorem portCommand_eq_some (p : PortWord) (i : Instr) :
    portCommand p = some i ↔ p.word.toNat < 128 ∧ decode p = .ok i := by
  unfold portCommand
  rw [classBit_eq]
  by_cases h : 128 ≤ p.word.toNat
  · simp [h]
  · cases hd : decode p <;> (simp [h]; try omega)

/-- What the port refuses. -/
theorem portCommand_eq_none (p : PortWord) :
    portCommand p = none ↔ 128 ≤ p.word.toNat ∨ ∀ i, decode p ≠ .ok i := by
  unfold portCommand
  rw [classBit_eq]
  by_cases h : 128 ≤ p.word.toNat
  · simp [h]
  · cases hd : decode p <;> simp [h]

theorem plainOperation_eq_ok (w : CommandWord) (i j : Instr) :
    plainOperation w i = .ok j ↔ CommandWord.modifier w = 0 ∧ i = j := by
  unfold plainOperation
  split_ifs with h
  · simp only [Except.ok.injEq, h, true_and]
  · simp only [false_iff, not_and]
    exact fun hm => absurd hm h

theorem startOperation_eq_ok (w : CommandWord) (j : Instr) :
    startOperation w = .ok j ↔
      CommandWord.startReserved w = 0 ∧ .start (CommandWord.runBit w) = j := by
  unfold startOperation
  split_ifs with h
  · simp only [Except.ok.injEq, h, true_and]
  · simp only [false_iff, not_and]
    exact fun hm => absurd hm h

/-- Decoding by the values of the two fields that select the operation (R65). -/
theorem decode_eq (p : PortWord) {c : Bool} {op : Nat} (hc : CommandWord.classBit p.word = c)
    (ho : (CommandWord.operation p.word).toNat = op) : decode p = decodeOperation c op p := by
  subst hc ho
  rfl

/-- An instruction decodes from a word of its own class (R65, R71). -/
theorem decode_class (p : PortWord) (i : Instr) (h : decode p = .ok i) :
    i.isInternal = decide (128 ≤ p.word.toNat) := by
  rw [← classBit_eq]
  unfold decode decodeOperation at h
  split at h <;> (try simp only [plainOperation_eq_ok, startOperation_eq_ok, reduceCtorEq] at h) <;>
    (obtain ⟨-, rfl⟩ := h; simp_all [Instr.isInternal])

end Sys2Proof.Machine
end

