-- ==== Sys2Proof/Laws/PerInstr.lean ====
section
/-!
SUPPORT. One family of statements, made for each instruction: its encoding belongs to the row of
spec/opcode_table.json that carries its mnemonic, and to no other row.
-/

namespace Sys2Proof.Laws.TableRow

/-- The instruction's word belongs to exactly the row of its mnemonic. -/
def Statement (i : Instr) : Prop :=
  ∀ r ∈ opcodeTable, r.matchesWord (encode i).word = true ↔ r.mnemonic = mnemonicOf i

theorem encode (smp : SignalSample) : Statement (.encode smp) := by
  show ∀ r ∈ opcodeTable, r.matchesWord 0x01 = true ↔ r.mnemonic = "ENCODE"
  decide

theorem decode (f : WireFrame) : Statement (.decode f) := by
  show ∀ r ∈ opcodeTable, r.matchesWord 0x02 = true ↔ r.mnemonic = "DECODE"
  decide

theorem tick : Statement .tick := by
  show ∀ r ∈ opcodeTable, r.matchesWord 0x03 = true ↔ r.mnemonic = "TICK"
  decide

theorem start (run : Bool) : Statement (.start run) := by
  cases run with
  | false =>
    show ∀ r ∈ opcodeTable, r.matchesWord 0x04 = true ↔ r.mnemonic = "START"
    decide
  | true =>
    show ∀ r ∈ opcodeTable, r.matchesWord 0x14 = true ↔ r.mnemonic = "START"
    decide

theorem cancel : Statement .cancel := by
  show ∀ r ∈ opcodeTable, r.matchesWord 0x05 = true ↔ r.mnemonic = "CANCEL"
  decide

theorem read (reg : Nat) : Statement (.read reg) := by
  show ∀ r ∈ opcodeTable, r.matchesWord 0x06 = true ↔ r.mnemonic = "READ"
  decide

theorem iterate : Statement .iterate := by
  show ∀ r ∈ opcodeTable, r.matchesWord 0x81 = true ↔ r.mnemonic = "ITERATE"
  decide

theorem send : Statement .send := by
  show ∀ r ∈ opcodeTable, r.matchesWord 0x82 = true ↔ r.mnemonic = "SEND"
  decide

theorem waitExpire : Statement .waitExpire := by
  show ∀ r ∈ opcodeTable, r.matchesWord 0x83 = true ↔ r.mnemonic = "WAIT_EXPIRE"
  decide

end Sys2Proof.Laws.TableRow
end

