-- ==== Sys2Proof/Laws/Step.lean ====
section
/-!
SUPPORT. What each meaning and each step can do, once: from these the claims about a step follow without
unfolding it again.
-/

namespace Sys2Proof.Machine

/-! ### The meanings -/

/-- What TICK does (R95). -/
theorem execTick_cases {s t : State} (h : execTick s = .next t) :
    (s.regs.ctrl = .manual ∧
      t = respond (.sample (tickNow s).1) (s.setRegs (commitTick (tickNow s).2 s.regs))) ∨
    (s.regs.ctrl ≠ .manual ∧ t = raise .rejectedState s) := by
  simp only [execTick, Host.Outcome.next.injEq] at h
  split at h
  · exact .inl ⟨‹_›, h.symm⟩
  · exact .inr ⟨‹_›, h.symm⟩

/-- What START does (R116, R118). -/
theorem execStart_cases {run : Bool} {s t : State} (h : execStart run s = .next t) :
    (inRun s.regs.ctrl = false ∧ t = respond .none (s.setRegs (startSession run s.now s.regs))) ∨
    (inRun s.regs.ctrl = true ∧ t = raise .rejectedState s) := by
  simp only [execStart, Host.Outcome.next.injEq] at h
  split at h
  · next hr => exact .inr ⟨hr, h.symm⟩
  · next hr => exact .inl ⟨Bool.eq_false_iff.mpr hr, h.symm⟩

/-- What READ does (R120): it answers, and changes nothing else. -/
theorem execRead_cases {reg : Nat} {s t : State} (h : execRead reg s = .next t) :
    (∃ v, readRegister s.regs reg = .ok v ∧ t = respond (.value v) s) ∨
    (∃ e, readRegister s.regs reg = .error e ∧ t = raise e s) := by
  simp only [execRead, Host.Outcome.next.injEq] at h
  split at h
  · exact .inl ⟨_, ‹_›, h.symm⟩
  · exact .inr ⟨_, ‹_›, h.symm⟩

/-- What ITERATE does (R121). -/
theorem execIterate_cases {s t : State} (h : execIterate s = .next t) :
    (s.regs.ctrl = .ready ∧ t = moved (s.setRegs (iterateRegs s))) ∨
    (s.regs.ctrl ≠ .ready ∧ t = stuck s) := by
  simp only [execIterate, Host.Outcome.next.injEq] at h
  split at h
  · exact .inl ⟨‹_›, h.symm⟩
  · exact .inr ⟨‹_›, h.symm⟩

/-- The registers an ITERATE in READY leaves (R122, R123, R124). -/
theorem iterateRegs_cases (s : State) :
    (s.regs.cancel = true ∧ iterateRegs s = endRun .cancelled s.regs) ∨
    (s.regs.cancel = false ∧ ceilingReached s.cfg s.regs.sentCount = true ∧
      iterateRegs s = endRun .countReached s.regs) ∨
    (s.regs.cancel = false ∧ ceilingReached s.cfg s.regs.sentCount = false ∧
      iterateRegs s = latchFrame (frameWord (encodeFrame s.cfg (tickNow s).1))
        (commitTick (tickNow s).2 s.regs)) := by
  unfold iterateRegs
  cases s.regs.cancel <;> cases ceilingReached s.cfg s.regs.sentCount <;> simp

/-- What SEND does (R125). -/
theorem execSend_cases {s t : State} (h : execSend s = .next t) :
    (s.regs.ctrl = .sending ∧ t = moved ((s.addEvent (sendEvent s)).setRegs (sendRegs s))) ∨
    (s.regs.ctrl ≠ .sending ∧ t = stuck s) := by
  simp only [execSend, Host.Outcome.next.injEq] at h
  split at h
  · exact .inl ⟨‹_›, h.symm⟩
  · exact .inr ⟨‹_›, h.symm⟩

/-- The registers a SEND in SENDING leaves, by the answer (R126, R127, R128). -/
theorem sendRegs_cases (s : State) :
    (sendAnswer s = .ok ∧ s.cfg.pacing = 0 ∧
      sendRegs s = setCtrl .ready (setSentCount (sentCountAfter s) s.regs)) ∨
    (sendAnswer s = .ok ∧ s.cfg.pacing ≠ 0 ∧
      sendRegs s = enterWait .pacing (deadlineAfter s s.cfg.pacing)
        (setSentCount (sentCountAfter s) s.regs)) ∨
    (sendAnswer s = .busy ∧
      sendRegs s = enterWait .backoff (deadlineAfter s s.cfg.backoff) s.regs) ∨
    (∃ e, sendAnswer s = .fatal e ∧ sendRegs s = fatalAbort e s.regs) := by
  unfold sendRegs sentRegs
  cases h : sendAnswer s with
  | ok =>
    by_cases hp : s.cfg.pacing = 0
    · exact .inl ⟨rfl, hp, if_pos hp⟩
    · exact .inr (.inl ⟨rfl, hp, if_neg hp⟩)
  | busy => simp
  | fatal e => simp

/-- What WAIT_EXPIRE does (R129, R130, R156). -/
theorem execWaitExpire_cases {s t : State} (h : execWaitExpire s = .next t) :
    (s.regs.ctrl = .backoff ∧ (deadlineRead s).toNat ≤ s.now.toNat ∧
      t = moved (s.setRegs (setCtrl .sending s.regs))) ∨
    (s.regs.ctrl = .pacing ∧ (deadlineRead s).toNat ≤ s.now.toNat ∧
      t = moved (s.setRegs (setCtrl .ready s.regs))) ∨
    ((s.regs.ctrl = .backoff ∨ s.regs.ctrl = .pacing → s.now.toNat < (deadlineRead s).toNat) ∧
      t = stuck s) := by
  simp only [execWaitExpire, Host.Outcome.next.injEq] at h
  cases hc : s.regs.ctrl <;> simp only [hc, waitTarget] at h <;>
    (try split at h) <;> simp_all

/-! ### One step -/

/-- Whose turn it was and what it ran: every step is one of these. -/
theorem step_cases {s t : State} (h : step s = .next t) :
    (s.schedule = [] ∧ t = s) ∨
    (∃ rest, s.schedule = .reset :: rest ∧ t = resetSignal (s.dropTurn rest)) ∨
    (∃ now p rest, s.schedule = .host now p :: rest ∧
      ((portCommand p = none ∧ t = raise .illegalCommand ((s.dropTurn rest).setNow now)) ∨
       (∃ i, portCommand p = some i ∧ exec i ((s.dropTurn rest).setNow now) = .next t))) ∨
    (∃ now r rest, s.schedule = .controller now r :: rest ∧
      ((controllerStep s.regs.ctrl = none ∧
          t = stuck (((s.dropTurn rest).setNow now).setSendResult r)) ∨
       (∃ i, controllerStep s.regs.ctrl = some i ∧
          exec i (((s.dropTurn rest).setNow now).setSendResult r) = .next t))) := by
  unfold step at h
  split at h
  · next hs => exact .inl ⟨hs, by simpa using h.symm⟩
  · next slot rest hs =>
    cases slot with
    | reset => exact .inr (.inl ⟨rest, hs, by simpa [takeTurn] using h.symm⟩)
    | host now p =>
      refine .inr (.inr (.inl ⟨now, p, rest, hs, ?_⟩))
      simp only [takeTurn, hostTurn] at h
      split at h
      · next i hi => exact .inr ⟨i, hi, h⟩
      · next hi => exact .inl ⟨hi, by simpa using h.symm⟩
    | controller now r =>
      refine .inr (.inr (.inr ⟨now, r, rest, hs, ?_⟩))
      simp only [takeTurn, controllerTurn, State.setSendResult_regs, State.setNow_regs,
        State.dropTurn_regs] at h
      split at h
      · next i hi => exact .inr ⟨i, hi, h⟩
      · next hi => exact .inl ⟨hi, by simpa using h.symm⟩

/-- The configuration, the schedule, the draws and the turn count are not an instruction's to change. -/
theorem exec_keeps_environment {i : Instr} {s t : State} (h : exec i s = .next t) :
    t.cfg = s.cfg ∧ t.schedule = s.schedule ∧ t.now = s.now ∧ t.sendResult = s.sendResult ∧
      t.turn = s.turn := by
  cases i with
  | encode smp => cases h; exact ⟨rfl, rfl, rfl, rfl, rfl⟩
  | decode f => cases h; exact ⟨rfl, rfl, rfl, rfl, rfl⟩
  | tick => rcases execTick_cases h with ⟨-, rfl⟩ | ⟨-, rfl⟩ <;> exact ⟨rfl, rfl, rfl, rfl, rfl⟩
  | start run => rcases execStart_cases h with ⟨-, rfl⟩ | ⟨-, rfl⟩ <;> exact ⟨rfl, rfl, rfl, rfl, rfl⟩
  | cancel => cases h; exact ⟨rfl, rfl, rfl, rfl, rfl⟩
  | read reg =>
    rcases execRead_cases h with ⟨_, -, rfl⟩ | ⟨_, -, rfl⟩ <;> exact ⟨rfl, rfl, rfl, rfl, rfl⟩
  | iterate => rcases execIterate_cases h with ⟨-, rfl⟩ | ⟨-, rfl⟩ <;> exact ⟨rfl, rfl, rfl, rfl, rfl⟩
  | send => rcases execSend_cases h with ⟨-, rfl⟩ | ⟨-, rfl⟩ <;> exact ⟨rfl, rfl, rfl, rfl, rfl⟩
  | waitExpire =>
    rcases execWaitExpire_cases h with ⟨-, -, rfl⟩ | ⟨-, -, rfl⟩ | ⟨-, rfl⟩ <;>
      exact ⟨rfl, rfl, rfl, rfl, rfl⟩

/-! ### Runs -/

theorem run_zero (M : Host.Core) (s t : M.State) : M.run 0 s = .next t ↔ t = s := by
  rw [Host.Core.run, Host.Outcome.next.injEq]
  exact eq_comm

theorem run_succ (M : Host.Core) (n : Nat) (s t : M.State) :
    M.run (n + 1) s = .next t ↔ ∃ u, M.step s = .next u ∧ M.run n u = .next t := by
  rw [Host.Core.run]
  cases M.step s <;> simp

theorem runs_zero {s t : State} : runs 0 s t ↔ t = s := run_zero Sys2Proof.core s t

/-- `n + 1` steps are one step and `n` more. -/
theorem runs_succ {n : Nat} {s t : State} :
    runs (n + 1) s t ↔ ∃ u, step s = .next u ∧ runs n u t := run_succ Sys2Proof.core n s t

/-- The induction every claim about runs uses: a relation that is reflexive at its start and carried
by each step through states whose schedule only shrinks. -/
theorem runs_induction {P : Nat → State → Prop}
    (hstep : ∀ k s t, P k s → step s = .next t → P (k + 1) t) :
    ∀ (n k : Nat) (s t : State), P k s → runs n s t → P (k + n) t := by
  intro n
  induction n with
  | zero =>
    intro k s t hp hr
    rw [runs_zero] at hr
    exact hr ▸ hp
  | succ n ih =>
    intro k s t hp hr
    obtain ⟨u, hu, hr⟩ := runs_succ.mp hr
    have := ih (k + 1) u t (hstep k s u hp hu) hr
    rwa [Nat.add_right_comm, Nat.add_assoc] at this

/-- A step's schedule is the one before it or its tail. -/
theorem step_schedule_subset {s t : State} (h : step s = .next t) : t.schedule ⊆ s.schedule := by
  rcases step_cases h with ⟨-, rfl⟩ | ⟨rest, hs, rfl⟩ | ⟨now, p, rest, hs, ⟨-, rfl⟩ | ⟨i, -, hx⟩⟩ |
    ⟨now, r, rest, hs, ⟨-, rfl⟩ | ⟨i, -, hx⟩⟩
  · exact fun _ hm => hm
  · simp [hs]
  · simp [hs]
  · rw [(exec_keeps_environment hx).2.1]; simp [hs]
  · simp [hs]
  · rw [(exec_keeps_environment hx).2.1]; simp [hs]

end Sys2Proof.Machine
end

