-- ==== Sys2Proof/Laws/Turn.lean ====
section
/-!
SUPPORT. Everything one turn of each agent can do to the registers and the history, in the spec's own
cases: claims about steps and runs follow from these by cases.
-/

namespace Sys2Proof.Machine

/-- What a host command does to the registers (R75, R95, R116, R119, R120): only TICK in MANUAL, START
outside a run and CANCEL write any, and none touches the history. -/
theorem exec_host_cases {i : Instr} {s t : State} (hi : i.isInternal = false)
    (h : exec i s = .next t) :
    t.history = s.history ∧
    ((t.regs = s.regs ∧ (i = .tick → s.regs.ctrl ≠ .manual) ∧
        (∀ run, i = .start run → inRun s.regs.ctrl = true) ∧ i ≠ .cancel) ∨
      (∃ p, t.outcome = .response (.ok p) ∧
        ((i = .tick ∧ s.regs.ctrl = .manual ∧ t.regs = commitTick (tickNow s).2 s.regs) ∨
         (∃ run, i = .start run ∧ inRun s.regs.ctrl = false ∧
            t.regs = startSession run s.now s.regs) ∨
         (i = .cancel ∧ t.regs = setCancel s.regs)))) := by
  cases i with
  | encode smp => cases h; exact ⟨rfl, .inl ⟨rfl, nofun, nofun, nofun⟩⟩
  | decode f => cases h; exact ⟨rfl, .inl ⟨rfl, nofun, nofun, nofun⟩⟩
  | tick =>
    rcases execTick_cases h with ⟨hc, rfl⟩ | ⟨hc, rfl⟩
    · exact ⟨rfl, .inr ⟨_, rfl, .inl ⟨rfl, hc, rfl⟩⟩⟩
    · exact ⟨rfl, .inl ⟨rfl, fun _ => hc, nofun, nofun⟩⟩
  | start run =>
    rcases execStart_cases h with ⟨hc, rfl⟩ | ⟨hc, rfl⟩
    · exact ⟨rfl, .inr ⟨_, rfl, .inr (.inl ⟨run, rfl, hc, rfl⟩)⟩⟩
    · exact ⟨rfl, .inl ⟨rfl, nofun, fun _ _ => hc, nofun⟩⟩
  | cancel => cases h; exact ⟨rfl, .inr ⟨_, rfl, .inr (.inr ⟨rfl, rfl⟩)⟩⟩
  | read reg =>
    rcases execRead_cases h with ⟨_, -, rfl⟩ | ⟨_, -, rfl⟩ <;>
      exact ⟨rfl, .inl ⟨rfl, nofun, nofun, nofun⟩⟩
  | iterate => cases hi
  | send => cases hi
  | waitExpire => cases hi

/-- A command the port accepts is a host command (R71). -/
theorem portCommand_isHost {p : PortWord} {i : Instr} (h : portCommand p = some i) :
    i.isInternal = false := by
  obtain ⟨hw, hd⟩ := (portCommand_eq_some p i).mp h
  rw [decode_class p i hd]
  simp
  omega

/-- What decodes to a host command is accepted by the port (R66, R71). -/
theorem portCommand_of_decode {p : PortWord} {i : Instr} (h : decode p = .ok i)
    (hi : i.isInternal = false) : portCommand p = some i := by
  have := decode_class p i h
  rw [hi, eq_comm, decide_eq_false_iff_not, not_le] at this
  exact (portCommand_eq_some p i).mpr ⟨this, h⟩

/-- With no turn pending a step changes nothing. -/
theorem step_nil {s t : State} (hs : s.schedule = []) (h : step s = .next t) : t = s := by
  simp only [step, hs] at h
  cases h
  rfl

/-- The step of the reset signal (R160). -/
theorem step_reset {s t : State} {rest : List Slot} (hs : s.schedule = .reset :: rest)
    (h : step s = .next t) : t = resetSignal (s.dropTurn rest) := by
  simp only [step, hs, takeTurn] at h
  cases h
  rfl

/-- The step of a host turn: what it does to the registers. -/
theorem step_host {s t : State} {now : Timestamp} {p : PortWord} {rest : List Slot}
    (hs : s.schedule = .host now p :: rest) (h : step s = .next t) :
    t.cfg = s.cfg ∧ t.schedule = rest ∧ t.history = s.history ∧
    ((t.regs = s.regs ∧ (decode p = .ok .tick → s.regs.ctrl ≠ .manual) ∧
        (∀ run, decode p = .ok (.start run) → inRun s.regs.ctrl = true) ∧
        decode p ≠ .ok .cancel) ∨
      (∃ r, t.outcome = .response (.ok r) ∧
        ((portCommand p = some .tick ∧ s.regs.ctrl = .manual ∧
            ∃ e, (∀ e', s.regs.entryTime = some e' → e = e') ∧
              t.regs = commitTick (tickF s.cfg s.regs.toSeqState e now).2 s.regs) ∨
         (∃ run, portCommand p = some (.start run) ∧ inRun s.regs.ctrl = false ∧
            t.regs = startSession run now s.regs) ∨
         (portCommand p = some .cancel ∧ t.regs = setCancel s.regs)))) := by
  rcases step_cases h with ⟨hn, -⟩ | ⟨_, hn, -⟩ | ⟨now', p', rest', hn, hx⟩ | ⟨_, _, _, hn, -⟩ <;>
    rw [hs] at hn <;> cases hn
  rcases hx with ⟨hp, rfl⟩ | ⟨i, hp, hx⟩
  · have key : ∀ i : Instr, i.isInternal = false → decode p ≠ .ok i := fun i hi hd => by
      rw [portCommand_of_decode hd hi] at hp
      cases hp
    exact ⟨rfl, rfl, rfl, .inl ⟨rfl, fun hd => absurd hd (key _ rfl),
      fun run hd => absurd hd (key _ rfl), key _ rfl⟩⟩
  · have hd := ((portCommand_eq_some p i).mp hp).2
    obtain ⟨hcfg, hsch, -⟩ := exec_keeps_environment hx
    obtain ⟨hh, hr⟩ := exec_host_cases (portCommand_isHost hp) hx
    refine ⟨hcfg, hsch, hh, ?_⟩
    rcases hr with ⟨hr, h1, h2, h3⟩ | ⟨r, ho, ⟨rfl, hc, hr⟩ | ⟨run, rfl, hc, hr⟩ | ⟨rfl, hr⟩⟩
    · refine .inl ⟨hr, fun hd' => h1 ?_, fun run hd' => h2 run ?_, fun hd' => h3 ?_⟩ <;>
        (rw [hd] at hd'; injection hd')
    · exact .inr ⟨r, ho, .inl ⟨hp, hc, entryTimeRead ((s.dropTurn rest).setNow now),
        fun e' he => entryTimeRead_some _ e' he, hr⟩⟩
    · exact .inr ⟨r, ho, .inr (.inl ⟨run, hp, hc, hr⟩)⟩
    · exact .inr ⟨r, ho, .inr (.inr ⟨hp, hr⟩)⟩

/-- The step of a controller turn: what it does to the registers and the history. -/
theorem step_controller {s t : State} {now : Timestamp} {r : SendResult} {rest : List Slot}
    (hs : s.schedule = .controller now r :: rest) (h : step s = .next t) :
    t.cfg = s.cfg ∧ t.schedule = rest ∧
    ((t.regs = s.regs ∧ t.history = s.history ∧ s.regs.ctrl ≠ .ready ∧ s.regs.ctrl ≠ .sending ∧
        (s.regs.ctrl = .backoff ∨ s.regs.ctrl = .pacing →
          ∃ d : Timestamp, (∀ d', s.regs.deadline = some d' → d = d') ∧ now.toNat < d.toNat)) ∨
      (s.regs.ctrl = .ready ∧ t.history = s.history ∧
        ((s.regs.cancel = true ∧ t.regs = endRun .cancelled s.regs) ∨
         (s.regs.cancel = false ∧ ceilingReached s.cfg s.regs.sentCount = true ∧
            t.regs = endRun .countReached s.regs) ∨
         (s.regs.cancel = false ∧ ceilingReached s.cfg s.regs.sentCount = false ∧
            ∃ e, (∀ e', s.regs.entryTime = some e' → e = e') ∧
              t.regs = latchFrame
                (frameWord (encodeFrame s.cfg (tickF s.cfg s.regs.toSeqState e now).1))
                (commitTick (tickF s.cfg s.regs.toSeqState e now).2 s.regs)))) ∨
      (s.regs.ctrl = .sending ∧
        (∃ w, (∀ w', s.regs.frameBuf = some w' → w = w') ∧
          t.history = s.history ++
            [⟨now, s.cfg.canId, frameOfWord w, s.cfg.extended, false, classify s.cfg r⟩]) ∧
        ((classify s.cfg r = .ok ∧
            ∃ n : BitVec 64,
              (s.regs.sentCount.toNat + 1 < 2 ^ 64 → n.toNat = s.regs.sentCount.toNat + 1) ∧
              ((s.cfg.pacing = 0 ∧ t.regs = setCtrl .ready (setSentCount n s.regs)) ∨
               (s.cfg.pacing ≠ 0 ∧
                  ∃ d, t.regs = enterWait .pacing d (setSentCount n s.regs)))) ∨
         (classify s.cfg r = .busy ∧ ∃ d, t.regs = enterWait .backoff d s.regs) ∨
         (∃ e, classify s.cfg r = .fatal e ∧ t.regs = fatalAbort e s.regs))) ∨
      (t.history = s.history ∧
        ∃ d : Timestamp, (∀ d', s.regs.deadline = some d' → d = d') ∧ d.toNat ≤ now.toNat ∧
          ((s.regs.ctrl = .backoff ∧ t.regs = setCtrl .sending s.regs) ∨
           (s.regs.ctrl = .pacing ∧ t.regs = setCtrl .ready s.regs)))) := by
  rcases step_cases h with ⟨hn, -⟩ | ⟨_, hn, -⟩ | ⟨_, _, _, hn, -⟩ | ⟨now', r', rest', hn, hx⟩ <;>
    rw [hs] at hn <;> cases hn
  rcases hx with ⟨hc, rfl⟩ | ⟨i, hc, hx⟩
  · refine ⟨rfl, rfl, .inl ⟨rfl, rfl, ?_⟩⟩
    cases hr : s.regs.ctrl <;> simp [hr, controllerStep] at hc ⊢
  · obtain ⟨hcfg, hsch, -⟩ := exec_keeps_environment hx
    refine ⟨hcfg, hsch, ?_⟩
    generalize hu : ((s.dropTurn rest).setNow now).setSendResult r = u at hx
    have hreg : u.regs = s.regs := by rw [← hu]; rfl
    have hdead : ∀ d', s.regs.deadline = some d' → deadlineRead u = d' :=
      fun d' hd => deadlineRead_some u d' (hreg ▸ hd)
    cases hr : s.regs.ctrl <;> simp only [hr, controllerStep, Option.some.injEq, reduceCtorEq] at hc
    · subst hc hu
      rcases execIterate_cases hx with ⟨-, rfl⟩ | ⟨hn, -⟩
      · refine .inr (.inl ⟨rfl, rfl, ?_⟩)
        rcases iterateRegs_cases (((s.dropTurn rest).setNow now).setSendResult r) with
          ⟨ha, hb⟩ | ⟨ha, hk, hb⟩ | ⟨ha, hk, hb⟩
        · exact .inl ⟨ha, hb⟩
        · exact .inr (.inl ⟨ha, hk, hb⟩)
        · exact .inr (.inr ⟨ha, hk,
            entryTimeRead (((s.dropTurn rest).setNow now).setSendResult r),
            fun e' he => entryTimeRead_some _ e' he, hb⟩)
      · exact absurd hr hn
    · subst hc hu
      rcases execSend_cases hx with ⟨-, rfl⟩ | ⟨hn, -⟩
      · refine .inr (.inr (.inl ⟨rfl, ⟨
          frameBufRead (((s.dropTurn rest).setNow now).setSendResult r),
          fun w' hw => frameBufRead_some _ w' hw, rfl⟩, ?_⟩))
        rcases sendRegs_cases (((s.dropTurn rest).setNow now).setSendResult r) with
          ⟨ha, hb, hd⟩ | ⟨ha, hb, hd⟩ | ⟨ha, hd⟩ | ⟨e, ha, hd⟩
        · exact .inl ⟨ha, sentCountAfter (((s.dropTurn rest).setNow now).setSendResult r),
            sentCountAfter_exact (((s.dropTurn rest).setNow now).setSendResult r), .inl ⟨hb, hd⟩⟩
        · exact .inl ⟨ha, sentCountAfter (((s.dropTurn rest).setNow now).setSendResult r),
            sentCountAfter_exact (((s.dropTurn rest).setNow now).setSendResult r), .inr ⟨hb, _, hd⟩⟩
        · exact .inr (.inl ⟨ha, _, hd⟩)
        · exact .inr (.inr ⟨e, ha, hd⟩)
      · exact absurd hr hn
    all_goals
      subst hc
      rcases execWaitExpire_cases hx with ⟨hb, hle, rfl⟩ | ⟨hb, hle, rfl⟩ | ⟨hw, rfl⟩
      · first
        | exact absurd (hr.symm.trans (hreg ▸ hb)) (by decide)
        | (subst hu
           exact .inr (.inr (.inr ⟨rfl, _, hdead, hle, .inl ⟨rfl, rfl⟩⟩)))
      · first
        | exact absurd (hr.symm.trans (hreg ▸ hb)) (by decide)
        | (subst hu
           exact .inr (.inr (.inr ⟨rfl, _, hdead, hle, .inr ⟨rfl, rfl⟩⟩)))
      · have hlt := hw (by rw [hreg, hr]; simp)
        subst hu
        exact .inl ⟨rfl, rfl, by simp, by simp, fun _ => ⟨_, hdead, hlt⟩⟩

end Sys2Proof.Machine
end

