-- ==== Sys2Proof/Machine/TraceLine.lean ====
section
/-!
DEFINITION. The line syntax of commands and traces (R73), as a printer: the spec writes programs in it,
and the pseudo-commands INIT and RUN print as the START they mean (R74). The printer is no part of a
step (log 19).
-/

namespace Sys2Proof.Machine

/-- A number of an ENCODE line: an integer, or a fraction such as `45/8` (R73). -/
def numberText (x : ℚ) : String :=
  if x.den = 1 then toString x.num else toString x.num ++ "/" ++ toString x.den

/-- One hex digit. -/
def hexDigit (n : Nat) : String :=
  match n with
  | 10 => "A"
  | 11 => "B"
  | 12 => "C"
  | 13 => "D"
  | 14 => "E"
  | 15 => "F"
  | k => toString k

/-- A byte as two hex digits (R73). -/
def byteText (b : Byte) : String := hexDigit (b.toNat / 16) ++ hexDigit (b.toNat % 16)

/-- The eight bytes of a DECODE line (R73). -/
def frameText (f : WireFrame) : String :=
  String.intercalate " " ([f.b0, f.b1, f.b2, f.b3, f.b4, f.b5, f.b6, f.b7].map byteText)

/-- The operands of a line, after the mnemonic (R73). -/
def operandText : Instr → String
  | .encode smp =>
    " " ++ numberText smp.angle ++ ", " ++ numberText smp.rate ++ ", " ++ toString smp.status ++ ", "
      ++ toString smp.sequence
  | .decode f => " " ++ frameText f
  | .tick => ""
  | .start run => " run=" ++ toString (bitNumber run)
  | .cancel => ""
  | .read reg => " " ++ toString reg
  | .iterate => ""
  | .send => ""
  | .waitExpire => ""

/-- The transport's draw on a SEND line (R73). -/
def answerText : SendAnswer → String
  | .ok => " -> OK"
  | .busy => " -> BUSY"
  | .fatal code => " -> FATAL(" ++ toString code ++ ")"

/-- A line of a program or a trace (R73): the timer's draw where one is given, the mnemonic, the
operands, and on a SEND line the transport's answer. -/
def traceLine (now : Option Timestamp) (i : Instr) (answer : Option SendAnswer) : String :=
  (match now with
    | some t => "@" ++ toString t.toNat ++ " "
    | none => "")
    ++ mnemonicOf i ++ operandText i
    ++ (match answer with
        | some a => answerText a
        | none => "")

end Sys2Proof.Machine
end

