-- ==== Sys2Proof/Tests/Slice0.lean ====
section
/-!
SUPPORT. Small tests whose expected results come from the spec (95_test_vectors.md and the examples of
the rules; the vector's name stands beside each), and for every statement with hypotheses a concrete
witness that meets them.
-/

namespace Sys2Proof.Tests

open Sys2Proof.Machine

/-! ### Small states -/

/-- The reference configuration of 95_test_vectors.md, with a busy code of its own. -/
def refCfg : Cfg where
  left := -450
  right := 450
  straight := 0
  tTrans := 2000
  tHold := 5000
  canId := 0x123
  extended := false
  maxFrames := none
  pacing := 0
  backoff := 1
  channel := 0
  bitrateIndex := 0
  timerHz := 1000
  roundTies := .even
  rateQuant := .round
  seqEmit := .pre
  busyCode := 99
  errWidth := 8

/-- The reset state under a configuration. -/
def base (c : Cfg) : State := { State.reset with cfg := c }

/-- A session started at 0 in a state of CTRL, with the frame of R124's example latched and a
deadline at 11. -/
def inCtrl (c : Cfg) (k : Ctrl) : State :=
  { base c with
    regs := { startSession true 0 Regs.reset with
      ctrl := k, frameBuf := some 0x0000000600060000, deadline := some 11 } }

/-- A state with its draws of the timer and the transport. -/
def drawing (s : State) (now : Timestamp) (r : SendResult) : State :=
  { s with now := now, sendResult := r }

/-- A state with turns pending. -/
def turns (s : State) (l : List Slot) : State := { s with schedule := l }

/-- The next state of an outcome. -/
def after (o : Host.Outcome State Fault Refusal) : Option State :=
  match o with
  | .next t => some t
  | .fault _ => none
  | .refused _ => none

/-- A port word with a register number. -/
def readWord (reg : BitVec 8) : PortWord := { PortWord.bare 0x06 with reg := reg }

/-! ### Well-formedness: an ill-formed term for each check -/

theorem test_wf_read_register_is_a_byte : (Instr.read 256).wellFormed = false := by decide

theorem test_wf_read_register_255 : (Instr.read 255).wellFormed = true := by decide

theorem test_wf_timerHz_is_positive : { refCfg with timerHz := 0 }.wellFormed = false := by decide

theorem test_wf_canId_fits : { refCfg with canId := 0x800 }.wellFormed = false ∧
    { refCfg with canId := 0x800, extended := true }.wellFormed = true := by decide

theorem test_wf_busyCode_fits : { refCfg with busyCode := 256 }.wellFormed = false := by decide

theorem test_wf_reference : refCfg.wellFormed = true := by decide

/-! ### Decoding: the words of R66 and R67, field by field -/

theorem test_decode_encode :
    decode { PortWord.bare 0b0_000_0001 with sample := ⟨-45, 0, 0, 0⟩ } =
      .ok (.encode ⟨-45, 0, 0, 0⟩) := rfl

theorem test_decode_decode :
    decode { PortWord.bare 0b0_000_0010 with frame := ⟨0x3E, 0xFE, 0, 0, 0, 0, 0, 0⟩ } =
      .ok (.decode ⟨0x3E, 0xFE, 0, 0, 0, 0, 0, 0⟩) := rfl

theorem test_decode_tick : decode (PortWord.bare 0b0_000_0011) = .ok .tick := rfl

theorem test_decode_start : decode (PortWord.bare 0b0_000_0100) = .ok .init ∧
    decode (PortWord.bare 0b0_001_0100) = .ok .run := ⟨rfl, rfl⟩

theorem test_decode_cancel : decode (PortWord.bare 0b0_000_0101) = .ok .cancel := rfl

theorem test_decode_read :
    decode { PortWord.bare 0b0_000_0110 with reg := 12 } = .ok (.read 12) := rfl

theorem test_decode_iterate : decode (PortWord.bare 0b1_000_0001) = .ok .iterate := rfl

theorem test_decode_send : decode (PortWord.bare 0b1_000_0010) = .ok .send := rfl

theorem test_decode_waitExpire : decode (PortWord.bare 0b1_000_0011) = .ok .waitExpire := rfl

/-- R70 and H-15, T-14, H-13, H-16: words with no meaning. -/
theorem test_decode_reserved :
    decode (PortWord.bare 0x00) = .error .reservedOperation ∧
    decode (PortWord.bare 0x07) = .error .reservedOperation ∧
    decode (PortWord.bare 0x0F) = .error .reservedOperation ∧
    decode (PortWord.bare 0x13) = .error .reservedModifier ∧
    decode (PortWord.bare 0x16) = .error .reservedModifier ∧
    decode (PortWord.bare 0x24) = .error .reservedStartModifier ∧
    decode (PortWord.bare 0x80) = .error .reservedInternal ∧
    decode (PortWord.bare 0x84) = .error .reservedInternal ∧
    decode (PortWord.bare 0x91) = .error .reservedModifier := by
  refine ⟨rfl, rfl, rfl, rfl, rfl, rfl, rfl, rfl, rfl⟩

theorem test_decodeTableWord :
    decodeTableWord 8 0x14 = some (.start true) ∧ decodeTableWord 8 0x83 = some .waitExpire ∧
    decodeTableWord 8 0x24 = none ∧ decodeTableWord 16 0x103 = none := ⟨rfl, rfl, rfl, rfl⟩

/-- The word of each row, placed at the fetch of the reset state, is what the next step runs. -/
theorem test_withFetchWord :
    step (State.reset.withFetchWord 8 0x05) =
      exec .cancel { State.reset with turn := 1 } ∧
    (after (step (State.reset.withFetchWord 8 0x14))).map (·.regs.ctrl) = some .ready ∧
    (after (step (State.reset.withFetchWord 8 0x81))).map (·.regs.ctrl) = some .sending ∧
    (after (step (State.reset.withFetchWord 8 0x82))).map (·.regs.sentCount) = some 1 ∧
    (after (step (State.reset.withFetchWord 8 0x83))).map (·.regs.ctrl) = some .sending :=
  ⟨rfl, rfl, rfl, by decide, rfl⟩

/-! ### Codec (vectors of sections 2.1 and 2.2) -/

/-- E-16: ties in angle and rate, under the defaults. -/
theorem test_encode_E16 : encodeFrame refCfg ⟨12345 / 100, 5 / 2, 0x5A, 15⟩ =
    ⟨0xD2, 0x04, 0x02, 0x5A, 0xFE, 0, 0, 0⟩ := by decide +kernel

/-- E-6 and E-14 with ROUND_TIES = AWAY: every lower clamp, and the tie at −0.5. -/
theorem test_encode_E6_E14 :
    encodeFrame refCfg ⟨-5000, -3, -1, -7⟩ = ⟨0x00, 0x80, 0, 0, 0, 0, 0, 0⟩ ∧
    encodeFrame { refCfg with roundTies := .away } ⟨-5 / 100, 0, 0, 0⟩ =
      ⟨0xFF, 0xFF, 0, 0, 0, 0, 0, 0⟩ := by decide +kernel

/-- D-6: a wrong checksum is decoded and flagged. -/
theorem test_decode_D6 : decodeFrame ⟨0x1F, 0xFF, 0x06, 0x00, 0x27, 0, 0, 0⟩ =
    ⟨-225, -45 / 2, 6, 0, 2, 7, 6, false, false⟩ := by decide +kernel

/-- D-8: all ones. -/
theorem test_decode_D8 : decodeFrame ⟨0xFF, 0xFF, 0xFF, 0xFF, 0xFF, 0xFF, 0xFF, 0xFF⟩ =
    ⟨-1, -1 / 10, 255, 255, 15, 15, 0, false, true⟩ := by decide +kernel

/-- R120's example of a frame word. -/
theorem test_frameWord :
    frameWord ⟨0x00, 0x00, 0x06, 0x00, 0x06, 0, 0, 0⟩ = 0x0000000600060000 := by decide

/-! ### Sequencer (vectors of section 2.3) -/

/-- T-6: ties in the ramp, exactly. -/
theorem test_tick_T6 :
    tickF { refCfg with left := -1, tTrans := 2, tHold := 5 } ⟨.steeringLeft, some 0, 0, true⟩ 0 1 =
      (⟨-1 / 20, 25 / 2, 0, 0⟩, ⟨.steeringLeft, some 0, 1, true⟩) := by decide +kernel

/-- T-1 at 7000: the hold's last tick advances the phase. -/
theorem test_tick_T1_at_7000 :
    tickF refCfg ⟨.steeringLeft, some 0, 7, true⟩ 0 7000 =
      (⟨-45, 0, 0, 7⟩, ⟨.steeringRight, some 7000, 8, false⟩) := by decide +kernel

/-! ### Controller (vectors of sections 2.4 and 2.5) -/

/-- H-5: START in DONE clears the termination and leaves FRAME_BUF and DEADLINE. -/
theorem test_start_H5 :
    (after (execStart false (drawing { inCtrl refCfg .done with
      regs := { (inCtrl refCfg .done).regs with termReason := .fatal, termCode := some 7 } }
      30 .ok))).map (fun t => (t.regs.ctrl, t.regs.termReason, t.regs.termCode, t.regs.deadline)) =
      some (.manual, .none, none, some 11) := by decide

/-- H-3: START in a run is rejected. -/
theorem test_start_H3 :
    (after (execStart true (inCtrl refCfg .ready))).map (·.outcome) =
      some (.response (.error .rejectedState)) := rfl

/-- H-6: CANCEL in IDLE. -/
theorem test_cancel_H6 :
    (after (execCancel (base refCfg))).map (fun t => (t.regs.cancel, t.regs.ctrl)) =
      some (true, .idle) := by decide

/-- H-12: READ 8 after R124's example. -/
theorem test_read_H12 :
    (after (execRead 8 (inCtrl refCfg .sending))).map (·.outcome) =
      some (.response (.ok (.value 0x0000000600060000))) := by decide +kernel

/-- H-8 and H-10. -/
theorem test_read_H8_H10 :
    readRegister Regs.reset 4 = .error .unwritten ∧
    readRegister Regs.reset 12 = .error .illegalRegister := ⟨rfl, rfl⟩

/-- C-1: the latched frame of the first iteration. -/
theorem test_iterate_C1 :
    (after (execIterate (inCtrl refCfg .ready))).map
      (fun t => (t.regs.frameBuf, t.regs.seq, t.regs.ctrl)) =
      some (some 0x0000000600060000, 1, .sending) := by decide +kernel

/-- C-4: cancellation is checked before the ceiling. -/
theorem test_iterate_C4 :
    (after (execIterate { inCtrl { refCfg with maxFrames := some 0 } .ready with
      regs := { (inCtrl refCfg .ready).regs with cancel := true } })).map (·.regs.termReason) =
      some .cancelled := by decide

/-- C-6: the pacing wait. -/
theorem test_send_C6 :
    (after (execSend (drawing (inCtrl { refCfg with pacing := 10 } .sending) 1 .ok))).map
      (fun t => (t.regs.sentCount, t.regs.deadline, t.regs.ctrl)) =
      some (1, some 11, .pacing) := by decide +kernel

/-- C-11: the fatal abort. -/
theorem test_send_C11 :
    (after (execSend (drawing (inCtrl refCfg .sending) 20 (.err 7)))).map
      (fun t => (t.regs.termReason, t.regs.termCode, t.regs.sentCount, t.regs.ctrl)) =
      some (.fatal, some 7, 0, .done) := by decide +kernel

/-- C-10: leaving PACING at the deadline. -/
theorem test_waitExpire_C10 :
    (after (execWaitExpire (drawing (inCtrl refCfg .pacing) 11 .ok))).map (·.regs.ctrl) =
      some .ready := by decide

/-- C-8: before the deadline no step is enabled. -/
theorem test_waitExpire_C8 :
    (after (execWaitExpire (drawing (inCtrl refCfg .backoff) 10 .ok))).map
      (fun t => (t.regs.ctrl, t.outcome)) = some (.backoff, .stuck) := by decide

/-! ### Line syntax (R73) -/

/-- Lines of R73's list and of programs P3 and P4. -/
theorem test_traceLine :
    traceLine none (.encode ⟨0, 45 / 4, 0, 2⟩) none = "ENCODE 0, 45/4, 0, 2" ∧
    traceLine none (.decode ⟨0x1F, 0xFF, 6, 0, 0x27, 0, 0, 0⟩) none =
      "DECODE 1F FF 06 00 27 00 00 00" ∧
    traceLine (some 1001) .waitExpire none = "@1001 WAIT_EXPIRE" ∧
    traceLine (some 20) .send (some (.fatal 7)) = "@20 SEND -> FATAL(7)" := by decide +kernel

/-! ### Witnesses: for every statement with hypotheses, states and operands that meet them -/

theorem witness_DecodeOfEncodeIsTheInstruction :
    ∃ i : Instr, i = .read 255 ∧ i.wellFormed = true := ⟨.read 255, rfl, rfl⟩

theorem witness_EncodeOfDecodeIsTheWord :
    (∃ p smp, decode p = .ok (.encode smp)) ∧ (∃ p f, decode p = .ok (.decode f)) ∧
    (∃ p, decode p = .ok (.read 255)) :=
  ⟨⟨PortWord.bare 0x01, _, rfl⟩, ⟨PortWord.bare 0x02, _, rfl⟩, ⟨readWord 255, rfl⟩⟩

theorem witness_DecoderAgreesWithTheOpcodeTable :
    (∃ p, decode p = .ok (.start true)) ∧
    (∃ p : PortWord, ∃ r ∈ opcodeTable, r.matchesWord p.word = true) :=
  ⟨⟨PortWord.bare 0x14, rfl⟩, ⟨PortWord.bare 0x14, by decide⟩⟩

/-- One word for each kind of reserved word (R70), at the edges of the ranges. -/
theorem witness_ReservedHostWordsAnswerIllegalCommand :
    ∀ w ∈ [0x00, 0x07, 0x0F, 0x70, 0x11, 0x76, 0x24, 0x74],
      ∃ (s : State) (p : PortWord), p.word = BitVec.ofNat 8 w ∧
        s.schedule = .host 0 p :: [] ∧
        (let c := p.word.toNat / 128
         let m := p.word.toNat / 16 % 8
         let op := p.word.toNat % 16
         c = 0 ∧ ((op = 0 ∨ 7 ≤ op) ∨
           ((op = 1 ∨ op = 2 ∨ op = 3 ∨ op = 5 ∨ op = 6) ∧ m ≠ 0) ∨ (op = 4 ∧ m / 2 ≠ 0))) := by
  intro w hw
  refine ⟨turns (base refCfg) [.host 0 (PortWord.bare (BitVec.ofNat 8 w))],
    PortWord.bare (BitVec.ofNat 8 w), rfl, rfl, ?_⟩
  revert w
  decide

theorem witness_InternalStepsAreRefusedOnThePortAndGuardedByCtrl :
    (∃ (s : State) (p : PortWord), s.schedule = .host 0 p :: [] ∧ 128 ≤ p.word.toNat ∧
      p.word = 0x80) ∧
    (∃ s : State, s.regs.ctrl ≠ .ready ∧ s.regs.ctrl ≠ .sending ∧ s.regs.ctrl ≠ .backoff ∧
      s.regs.ctrl ≠ .pacing) :=
  ⟨⟨turns (base refCfg) [.host 0 (PortWord.bare 0x80)], PortWord.bare 0x80, rfl, by decide, rfl⟩,
    ⟨base refCfg, by decide⟩⟩

theorem witness_RoundFollowsFloorFractionAndTieRule :
    (∃ x : ℚ, x - x.floor < 1 / 2) ∧ (∃ x : ℚ, 1 / 2 < x - x.floor) ∧
    (∃ x : ℚ, x - x.floor = 1 / 2 ∧ 0 < x) ∧ (∃ x : ℚ, x - x.floor = 1 / 2 ∧ ¬0 < x) :=
  ⟨⟨0, by decide +kernel⟩, ⟨3 / 4, by decide +kernel⟩, ⟨1 / 2, by decide +kernel⟩,
    ⟨-1 / 2, by decide +kernel⟩⟩

theorem witness_RoundIsNearestEvenOrAway :
    ∀ ties : RoundTies, ∃ x : ℚ, |(roundRat ties x : ℚ) - x| = 1 / 2 := by
  intro ties
  refine ⟨1 / 2, ?_⟩
  cases ties
  · rw [show roundRat .even (1 / 2) = 0 by decide +kernel]
    norm_num
  · rw [show roundRat .away (1 / 2) = 1 by decide +kernel]
    norm_num

theorem witness_QuantRoundsOrTruncatesIntoAByte :
    (∃ (c : Cfg) (r : ℚ), 0 ≤ r ∧ r ≤ 255 ∧ c.rateQuant = .round ∧ r = 0) ∧
    (∃ (c : Cfg) (r : ℚ), 0 ≤ r ∧ r ≤ 255 ∧ c.rateQuant = .trunc ∧ r = 255) :=
  ⟨⟨refCfg, 0, by norm_num, by norm_num, rfl, rfl⟩,
    ⟨{ refCfg with rateQuant := .trunc }, 255, by norm_num, by norm_num, rfl, rfl⟩⟩

theorem witness_DecodeOfEncodeGivesTheSampleBack :
    ∃ k rate status sequence : ℤ, -32768 ≤ k ∧ k ≤ 32767 ∧ 0 ≤ rate ∧ rate ≤ 255 ∧ 0 ≤ status ∧
      status ≤ 255 ∧ 0 ≤ sequence ∧ sequence ≤ 15 := ⟨-32768, 255, 255, 15, by decide⟩

theorem witness_DecodedAnglesCoverTheRangeOnce :
    (∃ k : ℤ, -32768 ≤ k ∧ k ≤ 32767) ∧
    (∃ (b : Byte × Byte) (f : WireFrame), f.b0 = b.1 ∧ f.b1 = b.2) :=
  ⟨⟨32767, by decide⟩, ⟨(0xFF, 0x7F), ⟨0xFF, 0x7F, 0, 0, 0, 0, 0, 0⟩, rfl, rfl⟩⟩

theorem witness_CodecAnswersDependOnOperandsAlone :
    ∃ s s' : State, s ≠ s' ∧ s.cfg.roundTies = s'.cfg.roundTies ∧
      s.cfg.rateQuant = s'.cfg.rateQuant :=
  ⟨base refCfg, inCtrl refCfg .ready, by decide, rfl, rfl⟩

/-- In the ramp, at its end, and at the advance. -/
theorem witness_TickInManualFollowsTickF :
    ∀ now ∈ ([1999, 2000, 6999, 7000] : List Timestamp), ∃ (s : State) (t0 : Timestamp),
      s.regs.ctrl = .manual ∧ s.regs.entryTime = some t0 ∧ s.now = now :=
  fun now _ => ⟨drawing (inCtrl refCfg .manual) now .ok, 0, rfl, rfl, rfl⟩

theorem witness_TickCommitsTickFInManualAlone :
    (∃ s : State, s.regs.ctrl ≠ .manual) ∧
    (∃ (s : State) (t0 : Timestamp), s.regs.ctrl = .manual ∧ s.regs.entryTime = some t0) :=
  ⟨⟨base refCfg, by decide⟩, ⟨inCtrl refCfg .manual, 0, rfl, rfl⟩⟩

theorem witness_SampleValuesAreTheNamedFractions :
    ∃ (c : Cfg) (e : ℕ), e < c.tTrans.toNat := ⟨refCfg, 1999, by decide⟩

/-- The last is T-10's configuration. -/
theorem witness_RampRateIsConstantPositiveAndSaturates :
    (∃ (c : Cfg) (st : SeqState) (e e' : ℕ), c.timerHzPositive = true ∧ e < c.tTrans.toNat ∧
      e' < c.tTrans.toNat ∧ targetOf c st = anchorOf c st) ∧
    (∃ (c : Cfg) (st : SeqState) (e e' : ℕ), c.timerHzPositive = true ∧ e < c.tTrans.toNat ∧
      e' < c.tTrans.toNat ∧ targetOf c st ≠ anchorOf c st) ∧
    (∃ (c : Cfg) (st : SeqState) (e e' : ℕ), c.timerHzPositive = true ∧ e < c.tTrans.toNat ∧
      e' < c.tTrans.toNat ∧
      255 < |(targetOf c st : ℚ) - anchorOf c st| * c.timerHz / (40 * c.tTrans.toNat)) := by
  refine ⟨⟨{ refCfg with straight := -450 }, ⟨.steeringLeft, none, 0, true⟩, 0, 1999, by decide⟩,
    ⟨refCfg, ⟨.steeringLeft, none, 0, true⟩, 0, 1999, by decide⟩,
    { refCfg with left := -30000, right := 30000, tTrans := 1 }, ⟨.steeringRight, none, 0, false⟩,
    0, 0, by decide, by decide, by decide, ?_⟩
  show (255 : ℚ) < |((30000 : ℤ) : ℚ) - ((-30000 : ℤ) : ℚ)| * ((1000 : ℕ) : ℚ) / (40 * ((1 : ℕ) : ℚ))
  norm_num

theorem witness_RampAngleLiesBetweenAnchorAndTarget :
    (∃ (c : Cfg) (st : SeqState) (e : ℕ), e < c.tTrans.toNat ∧ e = 0 ∧
      anchorOf c st ≠ targetOf c st) ∧
    (∃ (c : Cfg) (e : ℕ), c.tTrans.toNat ≤ e) :=
  ⟨⟨refCfg, ⟨.steeringRight, none, 0, false⟩, 0, by decide⟩, ⟨refCfg, 2000, by decide⟩⟩

/-- T-7's and P5's configurations. -/
theorem witness_ZeroTransitionJumpsToTheTarget :
    (∃ c : Cfg, c.tTrans = 0 ∧ c.tHold ≠ 0) ∧ (∃ c : Cfg, c.tTrans = 0 ∧ c.tHold = 0) :=
  ⟨⟨{ refCfg with tTrans := 0 }, by decide⟩, ⟨{ refCfg with tTrans := 0, tHold := 0 }, by decide⟩⟩

/-- One tick before ENTRY_TIME (as T-3), for each range of the two durations. -/
theorem witness_BackwardTimerTicksAtThePhaseStart :
    ∀ c ∈ [refCfg, { refCfg with tTrans := 0 }, { refCfg with tTrans := 0, tHold := 0 }],
      ∃ (k : Cfg) (st : SeqState) (t0 now : Timestamp), k = c ∧ now.toNat < t0.toNat ∧
        st.entryTime = some t0 :=
  fun c _ => ⟨c, ⟨.steeringLeft, some 5000, 3, true⟩, 5000, 4999, rfl, by decide +revert, rfl⟩

theorem witness_SixteenTicksReturnTheSequence :
    ∃ (s : State) (times : List Timestamp), times.length = 16 ∧ s.regs.ctrl = .manual ∧
      s.schedule = times.map (fun t => Slot.host t (encode .tick)) ++ [] :=
  ⟨turns (inCtrl refCfg .manual) (List.replicate 16 (.host 7000 (encode .tick))),
    List.replicate 16 7000, rfl, rfl, rfl⟩

theorem witness_StartCreatesAFreshSession :
    (∃ s : State, s.regs.ctrl = .idle) ∧ (∃ s : State, s.regs.ctrl = .manual) ∧
    (∃ s : State, s.regs.ctrl = .done) ∧ (∃ s : State, s.regs.ctrl = .pacing) :=
  ⟨⟨base refCfg, rfl⟩, ⟨inCtrl refCfg .manual, rfl⟩, ⟨inCtrl refCfg .done, rfl⟩,
    ⟨inCtrl refCfg .pacing, rfl⟩⟩

/-- Every run state, with a value in every register, so that READ of 0 to 11 succeeds. -/
theorem witness_OnlyFourCommandsSucceedDuringARun :
    ∀ k ∈ [Ctrl.ready, .sending, .backoff, .pacing], ∃ s : State, s.regs.ctrl = k ∧
      s.regs.entryTime ≠ none ∧ s.regs.sessionStart ≠ none ∧ s.regs.deadline ≠ none ∧
      s.regs.frameBuf ≠ none ∧ s.regs.termCode ≠ none :=
  fun k _ => ⟨{ base refCfg with regs := { (base refCfg).regs with
      ctrl := k, entryTime := some 0, sessionStart := some 0, deadline := some 0,
      frameBuf := some 0, termCode := some 0 } }, rfl, nofun, nofun, nofun, nofun, nofun⟩

theorem witness_ReadFollowsTheRegisterMap :
    (∃ (s : State) (a b c : Timestamp) (w : FrameWord) (e : ErrorCode),
      s.regs.entryTime = some a ∧ s.regs.sessionStart = some b ∧ s.regs.deadline = some c ∧
      s.regs.frameBuf = some w ∧ s.regs.termCode = some e) ∧
    (∃ s : State, s.regs.entryTime = none ∧ s.regs.sessionStart = none ∧ s.regs.deadline = none ∧
      s.regs.frameBuf = none ∧ s.regs.termCode = none) ∧ (∃ reg : ℕ, 12 ≤ reg ∧ reg = 12) :=
  ⟨⟨{ inCtrl refCfg .done with regs := fatalAbort 7 (inCtrl refCfg .done).regs }, _, _, _, _, _,
      rfl, rfl, rfl, rfl, rfl⟩, ⟨base refCfg, rfl, rfl, rfl, rfl, rfl⟩, 12, le_refl 12, rfl⟩

theorem witness_IterateEndsACancelledRun :
    ∃ s : State, s.regs.ctrl = .ready ∧ s.regs.cancel = true :=
  ⟨{ inCtrl refCfg .ready with regs := setCancel (inCtrl refCfg .ready).regs }, rfl, rfl⟩

/-- C-3 and C-1. -/
theorem witness_IterateEndsARunAtItsCeiling :
    (∃ (s : State) (m : BitVec 64), s.regs.ctrl = .ready ∧ s.regs.cancel = false ∧
      s.cfg.maxFrames = some m ∧ m.toNat ≤ s.regs.sentCount.toNat) ∧
    (∃ s : State, s.regs.ctrl = .ready ∧ s.regs.cancel = false ∧ s.cfg.maxFrames = none) :=
  ⟨⟨inCtrl { refCfg with maxFrames := some 0 } .ready, 0, by decide⟩,
    ⟨inCtrl refCfg .ready, by decide⟩⟩

theorem witness_IterateTicksEncodesAndLatches :
    ∃ (s : State) (t0 : Timestamp), s.regs.ctrl = .ready ∧ s.regs.cancel = false ∧
      (∀ m, s.cfg.maxFrames = some m → s.regs.sentCount.toNat < m.toNat) ∧
      s.regs.entryTime = some t0 := by
  refine ⟨inCtrl { refCfg with maxFrames := some 1 } .ready, 0, rfl, rfl, ?_, rfl⟩
  rintro m ⟨⟩
  decide

theorem witness_IterateIsTickThenEncode :
    ∃ s : State, s.regs.ctrl = .ready ∧ s.regs.cancel = false ∧
      ∀ m, s.cfg.maxFrames = some m → s.regs.sentCount.toNat < m.toNat :=
  ⟨inCtrl refCfg .ready, rfl, rfl, nofun⟩

/-- With and without a pacing wait (C-5, C-6). -/
theorem witness_SendAnsweredOkCountsTheFrame :
    ∀ c ∈ [refCfg, { refCfg with pacing := 10 }], ∃ (s : State) (w : FrameWord), s.cfg = c ∧
      s.regs.ctrl = .sending ∧ s.regs.frameBuf = some w ∧ s.sendResult = .ok ∧
      s.regs.sentCount.toNat + 1 < 2 ^ 64 ∧ s.now.toNat + s.cfg.pacing.toNat < 2 ^ 64 := by
  intro c hc
  refine ⟨inCtrl c .sending, 0x0000000600060000, rfl, rfl, rfl, rfl, ?_⟩
  revert c
  decide

theorem witness_SendAnsweredBusyBacksOff :
    ∃ (s : State) (w : FrameWord), s.regs.ctrl = .sending ∧ s.regs.frameBuf = some w ∧
      s.sendResult = .err s.cfg.busyCode ∧ s.now.toNat + s.cfg.backoff.toNat < 2 ^ 64 :=
  ⟨drawing (inCtrl refCfg .sending) 1000 (.err 99), _, rfl, rfl, rfl, by decide⟩

theorem witness_SendAnsweredFatalAbortsTheRun :
    ∃ (s : State) (w : FrameWord) (code : ErrorCode), s.regs.ctrl = .sending ∧
      s.regs.frameBuf = some w ∧ s.sendResult = .err code ∧ code < 2 ^ s.cfg.errWidth ∧
      s.cfg.busyCode < 2 ^ s.cfg.errWidth ∧ code ≠ s.cfg.busyCode ∧ code = 255 :=
  ⟨drawing (inCtrl refCfg .sending) 20 (.err 255), _, 255, rfl, rfl, rfl, by decide⟩

/-- The answer OK, the busy code, and the largest code of the width. -/
theorem witness_EverySendAppendsOneEvent :
    (∃ (s : State) (w : FrameWord), s.regs.ctrl = .sending ∧ s.regs.frameBuf = some w ∧
      s.sendResult = .ok) ∧
    (∃ (s : State) (w : FrameWord) (n : ℕ), s.regs.ctrl = .sending ∧ s.regs.frameBuf = some w ∧
      s.sendResult = .err n ∧
      n % 2 ^ s.cfg.errWidth = s.cfg.busyCode % 2 ^ s.cfg.errWidth) ∧
    (∃ (s : State) (w : FrameWord) (n : ℕ), s.regs.ctrl = .sending ∧ s.regs.frameBuf = some w ∧
      s.sendResult = .err n ∧
      n % 2 ^ s.cfg.errWidth ≠ s.cfg.busyCode % 2 ^ s.cfg.errWidth) :=
  ⟨⟨inCtrl refCfg .sending, _, rfl, rfl, rfl⟩,
    ⟨drawing (inCtrl refCfg .sending) 20 (.err 99), _, 99, rfl, rfl, rfl, by decide⟩,
    ⟨drawing (inCtrl refCfg .sending) 20 (.err 255), _, 255, rfl, rfl, rfl, by decide⟩⟩

/-- Both waits, at the deadline itself. -/
theorem witness_WaitExpireLeavesTheWait :
    ∀ k ∈ [Ctrl.backoff, Ctrl.pacing], ∃ (s : State) (d : Timestamp), s.regs.ctrl = k ∧
      s.regs.deadline = some d ∧ d.toNat ≤ s.now.toNat ∧ s.now = d :=
  fun k _ => ⟨drawing (inCtrl refCfg k) 11 .ok, 11, rfl, rfl, by decide +revert, rfl⟩

/-- Both waits, one tick before the deadline. -/
theorem witness_WaitKeepsEveryRegisterUntilItsDeadline :
    ∀ k ∈ [Ctrl.backoff, Ctrl.pacing], ∃ (s : State) (d : Timestamp), s.regs.ctrl = k ∧
      s.regs.deadline = some d ∧ s.now.toNat < d.toNat :=
  fun k _ => ⟨drawing (inCtrl refCfg k) 10 .ok, 11, rfl, rfl, by decide +revert⟩

theorem witness_HostTurnRunsTheDecodedCommand :
    ∃ (s : State) (p : PortWord) (i : Instr), s.schedule = .host 250 p :: [] ∧ decode p = .ok i ∧
      p.word.toNat < 128 :=
  ⟨turns (base refCfg) [.host 250 (PortWord.bare 0x14)], PortWord.bare 0x14, .start true, rfl, rfl,
    by decide⟩

theorem witness_ControllerTurnRunsTheEnabledStep :
    ∀ k : Ctrl, ∃ s : State, s.regs.ctrl = k ∧ s.schedule = .controller 0 .ok :: [] :=
  fun k => ⟨turns (inCtrl refCfg k) [.controller 0 .ok], rfl, rfl⟩

theorem witness_EveryStepAnswersANextState : ∃ s : State, s.schedule = [] := ⟨base refCfg, rfl⟩

/-- H-14. -/
theorem witness_CommandErrorsLeaveNoTrace :
    ∃ (s t : State) (p : PortWord), s.schedule = .host 0 p :: [] ∧ step s = .next t ∧
      t.outcome = .response (.error .illegalCommand) :=
  ⟨turns (base refCfg) [.host 0 (PortWord.bare 0x81)], _, PortWord.bare 0x81, rfl, rfl, rfl⟩

theorem witness_ResetSignalRestoresEveryRegister :
    (∃ s : State, s.schedule = .reset :: []) ∧ (∃ i : Instr, i.isInternal = true) :=
  ⟨⟨turns (inCtrl refCfg .pacing) [.reset], rfl⟩, ⟨.send, rfl⟩⟩

/-- A controller turn in READY, one in SENDING for each kind of answer, one in each wait at its deadline
and before it, a START outside and inside a run, another command, and the reset signal. -/
theorem witness_ControlFollowsTheTransitionTable :
    ∀ x ∈ [(Ctrl.ready, Slot.controller 0 .ok), (.sending, .controller 0 .ok),
        (.sending, .controller 0 (.err 99)), (.sending, .controller 0 (.err 7)),
        (.backoff, .controller 11 .ok), (.backoff, .controller 10 .ok),
        (.pacing, .controller 11 .ok), (.pacing, .controller 10 .ok), (.idle, .controller 0 .ok),
        (.done, .host 0 (PortWord.bare 0x14)), (.ready, .host 0 (PortWord.bare 0x14)),
        (.manual, .host 0 (PortWord.bare 0x03)), (.pacing, .reset)],
      ∃ s t : State, s.regs.ctrl = x.1 ∧ s.regs.deadline = some 11 ∧ s.schedule = x.2 :: [] ∧
        step s = .next t := by
  intro x hx
  refine ⟨turns (inCtrl refCfg x.1) [x.2], ?_⟩
  fin_cases hx <;> exact ⟨_, rfl, rfl, rfl, rfl⟩

theorem witness_InitialImpliesLeftIsKept :
    (∃ s t : State, InitialOnlyInLeft s.regs ∧ s.regs.initial = true ∧ step s = .next t) ∧
    (∃ s t : State, s.regs.ctrl = .manual ∧ exec (.start true) s = .next t) :=
  ⟨⟨turns (inCtrl refCfg .manual) [.host 7000 (PortWord.bare 0x03)], _, fun _ => rfl, rfl, rfl⟩,
    ⟨inCtrl refCfg .manual, _, rfl, rfl⟩⟩

/-- A state in a wait, with a latched frame and an earlier event, from which the controller steps. -/
theorem witness_EveryStepKeepsTheSafeState :
    ∃ s t : State, s.Inv ∧ s.regs.ctrl = .pacing ∧ s.history ≠ [] ∧ step s = .next t ∧ t ≠ s := by
  refine ⟨{ turns (inCtrl refCfg .pacing) [.controller 11 .ok] with
    history := [⟨1, 0x123, ⟨0, 0, 6, 0, 6, 0, 0, 0⟩, false, false, .ok⟩] }, _, ?_, rfl, by decide,
    rfl, by decide⟩
  refine ⟨⟨fun _ => rfl, ?_, ?_, ?_⟩, ?_, nofun, ?_⟩
  · exact ⟨fun _ => ⟨rfl, rfl⟩, fun _ => rfl, fun _ => rfl⟩
  · unfold TerminationRecorded
    decide
  · rintro w ⟨⟩
    decide
  · unfold HistoryWellFormed
    decide
  · rintro e he c hc
    rw [List.mem_singleton] at he
    subst he
    cases hc

theorem witness_NoStepChangesTheConfiguration : ∃ s t : State, step s = .next t ∧ t ≠ s :=
  ⟨turns (base refCfg) [.host 0 (PortWord.bare 0x14)], _, rfl, by decide⟩

/-- A START and a successful SEND that change SENT_COUNT, an ITERATE that changes FRAME_BUF, and a CANCEL
that changes CANCEL. -/
theorem witness_RegistersChangeOnlyInTheirOwnSteps :
    (∃ (s t : State) (slot : Slot), s.schedule = slot :: [] ∧ step s = .next t ∧ slot ≠ .reset ∧
      t.regs.sentCount ≠ s.regs.sentCount ∧ t.history ≠ s.history ∧
      t.regs.deadline ≠ s.regs.deadline) ∧
    (∃ (s t : State) (slot : Slot), s.schedule = slot :: [] ∧ step s = .next t ∧ slot ≠ .reset ∧
      t.regs.termReason ≠ s.regs.termReason ∧ t.regs.termCode ≠ s.regs.termCode) ∧
    (∃ (s t : State) (slot : Slot), s.schedule = slot :: [] ∧ step s = .next t ∧ slot ≠ .reset ∧
      t.regs.frameBuf ≠ s.regs.frameBuf) ∧
    (∃ (s t : State) (slot : Slot), s.schedule = slot :: [] ∧ step s = .next t ∧ slot ≠ .reset ∧
      t.regs.sessionStart ≠ s.regs.sessionStart) ∧
    (∃ (s t : State) (slot : Slot), s.schedule = slot :: [] ∧ step s = .next t ∧ slot ≠ .reset ∧
      t.regs.cancel ≠ s.regs.cancel) :=
  ⟨⟨turns (inCtrl { refCfg with pacing := 10 } .sending) [.controller 5 .ok], _, .controller 5 .ok,
      rfl, rfl, by decide, by decide, by decide, by decide⟩,
    ⟨turns (inCtrl refCfg .sending) [.controller 5 (.err 7)], _, .controller 5 (.err 7),
      rfl, rfl, by decide, by decide, by decide⟩,
    ⟨turns { inCtrl refCfg .ready with regs := startSession true 0 Regs.reset } [.controller 5 .ok], _,
      .controller 5 .ok, rfl, rfl, by decide, nofun⟩,
    ⟨turns (base refCfg) [.host 5 (PortWord.bare 0x14)], _, .host 5 (PortWord.bare 0x14), rfl, rfl,
      by decide, by decide⟩,
    ⟨turns (base refCfg) [.host 5 (PortWord.bare 0x05)], _, .host 5 (PortWord.bare 0x05), rfl, rfl,
      by decide, by decide⟩⟩

/-- C-11 with the largest code of the width. -/
theorem witness_TermCodeFitsErrWidth :
    ∃ s t : State, (∀ c, s.regs.termCode = some c → s.cfg.fitsErrWidth c = true) ∧
      step s = .next t ∧ t.regs.termCode = some 255 :=
  ⟨turns (inCtrl refCfg .sending) [.controller 20 (.err 255)], _, nofun, rfl, by decide⟩

theorem witness_DoneIsLeftOnlyByStartOrReset :
    ∃ s t : State, s.regs.ctrl = .done ∧ s.schedule ≠ [] ∧
      (∀ slot ∈ s.schedule, slot.keepsSession = true) ∧ runs 2 s t :=
  ⟨turns (inCtrl refCfg .done) [.controller 0 .ok, .host 0 (PortWord.bare 0x05)], _, rfl, by decide,
    by decide, rfl⟩

/-- A BUSY answer, the wait, and a second BUSY answer. -/
theorem witness_BusyRetryResendsTheIdenticalFrame :
    ∃ (s t : State) (w : FrameWord), s.regs.frameBuf = some w ∧ s.regs.ctrl = .sending ∧
      (∀ slot ∈ s.schedule, slot.notReset = true) ∧ runs 3 s t ∧
      (∀ e ∈ t.history.drop s.history.length, e.answer = .busy) ∧ t.history.length = 2 :=
  ⟨turns (inCtrl refCfg .sending)
      [.controller 5 (.err 99), .controller 6 .ok, .controller 6 (.err 99)], _,
    0x0000000600060000, rfl, rfl, by decide, rfl, by decide, rfl⟩

/-- A cancelled run that sends its latched frame and then ends. -/
theorem witness_AfterCancelNoFrameIsMade :
    ∃ s t : State, s.regs.ctrl = .sending ∧ s.regs.cancel = true ∧
      (∀ slot ∈ s.schedule, slot.keepsSession = true) ∧ runs 2 s t ∧ t.regs.ctrl = .done :=
  ⟨turns { inCtrl refCfg .sending with regs := setCancel (inCtrl refCfg .sending).regs }
      [.controller 5 .ok, .controller 6 .ok], _, rfl, rfl, by decide, rfl, rfl⟩

/-- At the ceiling less one, in SENDING: the last frame. -/
theorem witness_SentCountNeverPassesTheCeiling :
    ∃ (s t : State) (m : BitVec 64), s.cfg.maxFrames = some m ∧
      s.regs.sentCount.toNat ≤ m.toNat ∧
      (s.regs.ctrl = .sending ∨ s.regs.ctrl = .backoff → s.regs.sentCount.toNat < m.toNat) ∧
      s.regs.ctrl = .sending ∧ step s = .next t ∧ t.regs.sentCount = m :=
  ⟨turns (inCtrl { refCfg with maxFrames := some 1 } .sending) [.controller 5 .ok], _, 1, rfl,
    by decide, by decide, rfl, rfl, by decide⟩

/-- One frame made and sent. -/
theorem witness_SentCountIsTheNumberOfOkAnswers :
    ∃ s t : State, 2 < 2 ^ 64 ∧ s.regs.ctrl = .ready ∧ s.regs.sentCount = 0 ∧
      (∀ slot ∈ s.schedule, slot.keepsSession = true) ∧ runs 2 s t ∧ t.regs.sentCount = 1 :=
  ⟨turns (inCtrl refCfg .ready) [.controller 0 .ok, .controller 0 .ok], _, by decide, rfl, rfl,
    by decide, rfl, by decide⟩

/-- One frame made and sent: there is an event with index 0. -/
theorem witness_SentSequenceNibblesAreConsecutive :
    ∃ (s t : State) (e : SendEvent), s.regs.ctrl = .ready ∧
      (∀ slot ∈ s.schedule, slot.keepsSession = true) ∧ runs 2 s t ∧
      (sentEvents (t.history.drop s.history.length))[0]? = some e :=
  ⟨turns (inCtrl refCfg .ready) [.controller 0 .ok, .controller 0 .ok], _, _, rfl, by decide, rfl, rfl⟩

end Sys2Proof.Tests
end

section
/-!
SUPPORT. What one step can do to the registers and to the history, as one relation for each, and the
statements of 00_scope.md that follow: the safe state (O50, O51), the rounding rule (O10) and that every
step answers a next state (O44).
-/

namespace Sys2Proof.Machine

/-! ### Every step answers a next state (R142, R145) -/

/-- Each instruction's meaning answers a next state from every state. -/
theorem exec_next (i : Instr) (s : State) : ∃ t, exec i s = .next t := by
  cases i <;> exact ⟨_, rfl⟩

theorem hostTurn_next (p : PortWord) (s : State) : ∃ t, hostTurn p s = .next t := by
  unfold hostTurn
  cases portCommand p with
  | none => exact ⟨_, rfl⟩
  | some i => exact exec_next i s

theorem controllerTurn_next (s : State) : ∃ t, controllerTurn s = .next t := by
  unfold controllerTurn
  cases controllerStep s.regs.ctrl with
  | none => exact ⟨_, rfl⟩
  | some i => exact exec_next i s

theorem takeTurn_next (slot : Slot) (s : State) : ∃ t, takeTurn slot s = .next t := by
  cases slot with
  | host now p => exact hostTurn_next p _
  | controller now r => exact controllerTurn_next _
  | reset => exact ⟨_, rfl⟩

theorem step_next (s : State) : ∃ t, step s = .next t := by
  unfold step
  cases s.schedule with
  | nil => exact ⟨_, rfl⟩
  | cons slot rest => exact takeTurn_next slot _

/-- Settles O44: no meaning and no turn faults or refuses, and the empty schedule keeps the state. -/
theorem everyStepAnswersANextState : Obligations.EveryStepAnswersANextState := by
  intro s
  obtain ⟨t, ht⟩ := step_next s
  exact ⟨t, ht, fun hs => step_nil hs ht⟩

/-! ### Rounding (R13, R79) -/

/-- At a fraction of one half `round` is the tie rule's choice. -/
theorem roundRat_eq_roundTie (ties : RoundTies) {x : ℚ} (h : x = ⌊x⌋ + 1 / 2) :
    roundRat ties x = roundTie ties x ⌊x⌋ := by
  have hf : x - (⌊x⌋ : ℚ) = 1 / 2 := sub_eq_of_eq_add' h
  simp only [roundRat, floor_eq, hf, lt_irrefl, if_false]

/-- Only a number halfway between two integers lies one half away from an integer. -/
theorem eq_floor_add_half_of_dist {x : ℚ} {k : ℤ} (h : |(k : ℚ) - x| = 1 / 2) :
    x = ⌊x⌋ + 1 / 2 := by
  rcases eq_or_eq_neg_of_abs_eq h with h | h
  · have hfloor : ⌊x⌋ = k - 1 := Int.floor_eq_iff.mpr (by push_cast; constructor <;> linarith)
    rw [hfloor]
    push_cast
    linarith
  · have hfloor : ⌊x⌋ = k := Int.floor_eq_iff.mpr (by constructor <;> linarith)
    rw [hfloor]
    linarith

theorem even_roundTie_even (x : ℚ) (n : ℤ) : Even (roundTie .even x n) := by
  simp only [roundTie, Int.even_iff]
  split <;> omega

/-- The tie rule AWAY enlarges the magnitude of a number halfway between two integers. -/
theorem abs_lt_abs_roundTie_away {x : ℚ} {n : ℤ} (h : x = n + 1 / 2) :
    |x| < |(roundTie .away x n : ℚ)| := by
  simp only [roundTie]
  split
  next hpos =>
    push_cast
    rw [abs_of_pos hpos]
    exact lt_abs.mpr (.inl (by linarith))
  next hneg =>
    rw [abs_of_nonpos (not_lt.mp hneg)]
    exact lt_abs.mpr (.inr (by linarith))

/-- Settles O10: `round` stays within one half, and at one half it is the tie rule's choice. -/
theorem roundIsNearestEvenOrAway : Obligations.RoundIsNearestEvenOrAway := by
  intro ties x
  obtain ⟨hlo, hhi⟩ := roundRat_bounds ties x
  refine ⟨abs_le.mpr ⟨by linarith, by linarith⟩, fun hdist => ?_⟩
  have hhalf := eq_floor_add_half_of_dist hdist
  rw [roundRat_eq_roundTie ties hhalf]
  constructor
  · rintro rfl
    exact even_roundTie_even x ⌊x⌋
  · rintro rfl
    exact abs_lt_abs_roundTie_away hhalf

/-! ### What a step writes -/

/-- The register values one step can leave (R115, R160), under the configuration `c` and from the
registers `r`: one case for each write of the spec, with the state of CTRL that enables it. It is coarser than
`step_host` and `step_controller`: the values an invariant never asks for (SENT_COUNT, DEADLINE, the times)
are left open. -/
inductive RegWrite (c : Cfg) (r : Regs) : Regs → Prop where
  /-- no register changes -/
  | keep : RegWrite c r r
  /-- the reset signal (R160) -/
  | reset : RegWrite c r Regs.reset
  /-- TICK in MANUAL (R95) -/
  | tick (entry now : Timestamp) (hc : r.ctrl = .manual) :
      RegWrite c r (commitTick (tickF c r.toSeqState entry now).2 r)
  /-- START outside a run (R116) -/
  | start (run : Bool) (now : Timestamp) (hc : inRun r.ctrl = false) :
      RegWrite c r (startSession run now r)
  /-- CANCEL (R119) -/
  | cancel : RegWrite c r (setCancel r)
  /-- ITERATE ends the run (R122, R123) -/
  | finish (reason : TermReason) (hc : r.ctrl = .ready)
      (hr : reason = .cancelled ∨ reason = .countReached) : RegWrite c r (endRun reason r)
  /-- ITERATE latches a frame (R124) -/
  | latch (entry now : Timestamp) (hc : r.ctrl = .ready) :
      RegWrite c r (latchFrame (frameWord (encodeFrame c (tickF c r.toSeqState entry now).1))
        (commitTick (tickF c r.toSeqState entry now).2 r))
  /-- SEND answered OK without pacing (R126) -/
  | sent (n : BitVec 64) (hc : r.ctrl = .sending) : RegWrite c r (setCtrl .ready (setSentCount n r))
  /-- SEND answered OK with pacing (R126) -/
  | pace (n : BitVec 64) (d : Timestamp) (hc : r.ctrl = .sending) :
      RegWrite c r (enterWait .pacing d (setSentCount n r))
  /-- SEND answered BUSY (R127) -/
  | backOff (d : Timestamp) (hc : r.ctrl = .sending) : RegWrite c r (enterWait .backoff d r)
  /-- SEND answered with a fatal error (R128) -/
  | abort (e : ErrorCode) (hc : r.ctrl = .sending) (he : c.fitsErrWidth e = true) :
      RegWrite c r (fatalAbort e r)
  /-- WAIT_EXPIRE in BACKOFF (R129) -/
  | resend (hc : r.ctrl = .backoff) : RegWrite c r (setCtrl .sending r)
  /-- WAIT_EXPIRE in PACING (R130) -/
  | proceed (hc : r.ctrl = .pacing) : RegWrite c r (setCtrl .ready r)

/-- No step writes the configuration (R35, R168). -/
theorem step_cfg {s t : State} (h : step s = .next t) : t.cfg = s.cfg := by
  cases hs : s.schedule with
  | nil => rw [step_nil hs h]
  | cons slot rest =>
    cases slot with
    | host now p => exact (step_host hs h).1
    | controller now r => exact (step_controller hs h).1
    | reset => rw [step_reset hs h]; rfl

/-- Every step's registers are one of `RegWrite`'s cases. -/
theorem step_regWrite {s t : State} (h : step s = .next t) : RegWrite s.cfg s.regs t.regs := by
  cases hs : s.schedule with
  | nil => rw [step_nil hs h]; exact .keep
  | cons slot rest =>
    cases slot with
    | reset => rw [step_reset hs h]; exact .reset
    | host now p =>
      obtain ⟨-, -, -, hw⟩ := step_host hs h
      rcases hw with ⟨hr, -⟩ | ⟨-, -, ⟨-, hc, e, -, hr⟩ | ⟨run, -, hc, hr⟩ | ⟨-, hr⟩⟩ <;> rw [hr]
      · exact .keep
      · exact .tick e now hc
      · exact .start run now hc
      · exact .cancel
    | controller now r =>
      obtain ⟨-, -, hw⟩ := step_controller hs h
      rcases hw with ⟨hr, -⟩ | ⟨hc, -, hw⟩ | ⟨hc, -, hw⟩ | ⟨-, -, -, -, hw⟩
      · rw [hr]; exact .keep
      · rcases hw with ⟨-, hr⟩ | ⟨-, -, hr⟩ | ⟨-, -, e, -, hr⟩ <;> rw [hr]
        · exact .finish _ hc (.inl rfl)
        · exact .finish _ hc (.inr rfl)
        · exact .latch e now hc
      · rcases hw with ⟨-, n, -, ⟨-, hr⟩ | ⟨-, d, hr⟩⟩ | ⟨-, d, hr⟩ | ⟨e, he, hr⟩ <;> rw [hr]
        · exact .sent n hc
        · exact .pace n d hc
        · exact .backOff d hc
        · exact .abort e hc (classify_fatal_fits _ r e he)
      · rcases hw with ⟨hc, hr⟩ | ⟨hc, hr⟩ <;> rw [hr]
        · exact .resend hc
        · exact .proceed hc

/-- A step keeps the history, or in SENDING appends one event: a frame that is the latched one when there
is one, not remote, with the transport's answer (R125, R135). -/
theorem step_history_cases {s t : State} (h : step s = .next t) :
    t.history = s.history ∨
    (s.regs.ctrl = .sending ∧ ∃ (e : SendEvent) (w : FrameWord) (r : SendResult),
      t.history = s.history ++ [e] ∧ e.data = frameOfWord w ∧
      (∀ w', s.regs.frameBuf = some w' → w = w') ∧ e.remote = false ∧
      e.answer = classify s.cfg r) := by
  cases hs : s.schedule with
  | nil => rw [step_nil hs h]; exact .inl rfl
  | cons slot rest =>
    cases slot with
    | reset => rw [step_reset hs h]; exact .inl rfl
    | host now p => exact .inl (step_host hs h).2.2.1
    | controller now r =>
      obtain ⟨-, -, hw⟩ := step_controller hs h
      rcases hw with ⟨-, hh, -⟩ | ⟨-, hh, -⟩ | ⟨hc, ⟨w, hw, hh⟩, -⟩ | ⟨hh, -⟩
      · exact .inl hh
      · exact .inl hh
      · exact .inr ⟨hc, _, w, r, hh, rfl, hw, rfl, rfl⟩
      · exact .inl hh

/-! ### The register invariants, each kept by every write -/

/-- A tick clears INITIAL when it changes PHASE (R103, R108). -/
theorem tickF_initialOnlyInLeft (c : Cfg) (st : SeqState) (entry now : Timestamp)
    (h : st.initial = true → st.phase = .steeringLeft) :
    (tickF c st entry now).2.initial = true → (tickF c st entry now).2.phase = .steeringLeft := by
  simp only [tickF, tickState]
  split
  · nofun
  · exact h

/-- A tick leaves ENTRY_TIME holding a value (R97, R103). -/
theorem tickF_entryTime_isSome (c : Cfg) (st : SeqState) (entry now : Timestamp)
    (h : st.entryTime.isSome) : (tickF c st entry now).2.entryTime.isSome := by
  simp only [tickF, tickState]
  split
  · rfl
  · exact h

theorem RegWrite.initialOnlyInLeft {c : Cfg} {r r' : Regs} (hw : RegWrite c r r')
    (h : InitialOnlyInLeft r) : InitialOnlyInLeft r' := by
  cases hw with
  | reset | start => exact fun _ => rfl
  | tick entry now | latch entry now => exact tickF_initialOnlyInLeft c _ entry now h
  | keep | cancel | finish | sent | pace | backOff | abort | resend | proceed => exact h

theorem RegWrite.readsAreWritten {c : Cfg} {r r' : Regs} (hw : RegWrite c r r')
    (h : ReadsAreWritten r) : ReadsAreWritten r' := by
  obtain ⟨htime, hframe, hdead⟩ := h
  cases hw with
  | keep | cancel => exact ⟨htime, hframe, hdead⟩
  | reset => exact ⟨nofun, nofun, nofun⟩
  | start run => cases run <;> exact ⟨fun _ => ⟨rfl, rfl⟩, nofun, nofun⟩
  | tick entry now hc =>
    obtain ⟨hentry, hstart⟩ := htime (by simp [hc])
    exact ⟨fun _ => ⟨tickF_entryTime_isSome c _ entry now hentry, hstart⟩, hframe, hdead⟩
  | latch entry now hc =>
    obtain ⟨hentry, hstart⟩ := htime (by simp [hc])
    exact ⟨fun _ => ⟨tickF_entryTime_isSome c _ entry now hentry, hstart⟩, fun _ => rfl, nofun⟩
  | finish _ hc | sent _ hc | abort _ hc | proceed hc =>
    exact ⟨fun _ => htime (by simp [hc]), nofun, nofun⟩
  | pace _ _ hc => exact ⟨fun _ => htime (by simp [hc]), nofun, fun _ => rfl⟩
  | backOff _ hc =>
    exact ⟨fun _ => htime (by simp [hc]), fun _ => hframe (.inl hc), fun _ => rfl⟩
  | resend hc => exact ⟨fun _ => htime (by simp [hc]), fun _ => hframe (.inr hc), nofun⟩

/-- Outside DONE no reason and no code is recorded. -/
theorem TerminationRecorded.none_of_not_done {r : Regs} (h : TerminationRecorded r)
    (hc : r.ctrl ≠ .done) : r.termReason = .none ∧ r.termCode = none := by
  obtain ⟨hreason, hcode⟩ := h
  have hnone : r.termReason = .none := by simpa [hc] using hreason
  exact ⟨hnone, by simpa [hnone] using hcode⟩

theorem Regs.reset_terminationRecorded : TerminationRecorded Regs.reset :=
  ⟨by decide, by decide⟩

theorem RegWrite.terminationRecorded {c : Cfg} {r r' : Regs} (hw : RegWrite c r r')
    (h : TerminationRecorded r) : TerminationRecorded r' := by
  cases hw with
  | keep | cancel | tick => exact h
  | reset => exact Regs.reset_terminationRecorded
  | start run => cases run <;> simp [TerminationRecorded]
  | finish reason hc hr =>
    obtain ⟨-, hcode⟩ := h.none_of_not_done (by simp [hc])
    rcases hr with rfl | rfl <;> simp [TerminationRecorded, hcode]
  | abort => simp [TerminationRecorded]
  | latch _ _ hc | sent _ hc | pace _ _ hc | backOff _ hc | resend hc | proceed hc =>
    obtain ⟨hreason, hcode⟩ := h.none_of_not_done (by simp [hc])
    simp [TerminationRecorded, hreason, hcode]

theorem RegWrite.latchWellFormed {c : Cfg} {r r' : Regs} (hw : RegWrite c r r')
    (h : LatchWellFormed r) : LatchWellFormed r' := by
  cases hw with
  | reset => exact nofun
  | latch =>
    rintro w ⟨⟩
    rw [frameOfWord_frameWord]
    exact encodeFrame_wellFormed c _
  | keep | tick | start | cancel | finish | sent | pace | backOff | abort | resend | proceed => exact h

/-- The safe register states are kept by every write. -/
theorem RegWrite.inv {c : Cfg} {r r' : Regs} (hw : RegWrite c r r') (h : r.Inv) : r'.Inv := by
  obtain ⟨hinitial, hreads, hterm, hlatch⟩ := h
  exact ⟨hw.initialOnlyInLeft hinitial, hw.readsAreWritten hreads, hw.terminationRecorded hterm,
    hw.latchWellFormed hlatch⟩

/-- TERM_CODE is written from a code of `ERR_WIDTH` bits, or cleared (R9, R32). -/
theorem RegWrite.termCode_fits {c : Cfg} {r r' : Regs} (hw : RegWrite c r r')
    (h : ∀ e, r.termCode = some e → c.fitsErrWidth e = true) :
    ∀ e, r'.termCode = some e → c.fitsErrWidth e = true := by
  cases hw with
  | reset | start => exact nofun
  | abort _ _ he =>
    rintro e ⟨⟩
    exact he
  | keep | tick | cancel | finish | latch | sent | pace | backOff | resend | proceed => exact h

/-! ### The safe state -/

/-- A SEND offers the latched frame, which is there and well-formed (R46, R62, R125). -/
theorem step_historyWellFormed {s t : State} (hinv : s.regs.Inv) (h : HistoryWellFormed s.history)
    (hstep : step s = .next t) : HistoryWellFormed t.history := by
  obtain ⟨-, ⟨-, hframe, -⟩, -, hlatch⟩ := hinv
  rcases step_history_cases hstep with hh | ⟨hc, e, w, r, hh, hdata, hw, hremote, -⟩
  · rwa [hh]
  · obtain ⟨w', hw'⟩ := Option.isSome_iff_exists.mp (hframe (.inl hc))
    have hnew : frameWellFormed e.data = true := by rw [hdata, hw w' hw']; exact hlatch w' hw'
    rw [hh]
    exact List.forall_mem_append.mpr ⟨h, List.forall_mem_singleton.mpr ⟨hnew, hremote⟩⟩

/-- Every code is taken from the transport at `ERR_WIDTH` bits (R9, R32). -/
theorem step_codesFit {s t : State} (h : s.CodesFit) (hstep : step s = .next t) : t.CodesFit := by
  obtain ⟨hterm, hhist⟩ := h
  unfold State.CodesFit
  rw [step_cfg hstep]
  refine ⟨(step_regWrite hstep).termCode_fits hterm, ?_⟩
  rcases step_history_cases hstep with hh | ⟨-, e, -, r, hh, -, -, -, hanswer⟩
  · rwa [hh]
  · rw [hh]
    exact List.forall_mem_append.mpr ⟨hhist, List.forall_mem_singleton.mpr fun c hc =>
      classify_fatal_fits s.cfg r c (hanswer ▸ hc)⟩

/-- The registers of reset are safe (R38). -/
theorem Regs.reset_inv : Regs.reset.Inv :=
  ⟨fun _ => rfl, ⟨nofun, nofun, nofun⟩, Regs.reset_terminationRecorded, nofun⟩

/-- Settles O50: the reset registers are safe, and there is no event and no code yet. -/
theorem safeStateHoldsAtReset : Obligations.SafeStateHoldsAtReset :=
  ⟨Regs.reset_inv, nofun, nofun, nofun⟩

/-- Settles O51: each register write keeps the registers safe, and SEND's event is safe in a safe state. -/
theorem everyStepKeepsTheSafeState : Obligations.EveryStepKeepsTheSafeState := by
  intro s t ⟨hregs, hhist, hcodes⟩ hstep
  exact ⟨(step_regWrite hstep).inv hregs, step_historyWellFormed hregs hhist hstep,
    step_codesFit hcodes hstep⟩

end Sys2Proof.Machine
end

section
/-!
SUPPORT. The statements of 10_state.md: SENT_COUNT through a session (O59), who writes which register
(O53), the invariants of single registers (O49, O52, O54), the register map (O31) and the reset values
(O47).
-/

namespace Sys2Proof.Machine

/-! ### SENT_COUNT and the history (R27, R126, R135) -/

@[simp] theorem sentEvents_nil : sentEvents [] = [] := rfl

@[simp] theorem sentEvents_append (h es : List SendEvent) :
    sentEvents (h ++ es) = sentEvents h ++ sentEvents es := List.filter_append ..

/-- A single event adds one to the frames answered OK exactly when its answer is OK. -/
theorem length_sentEvents_singleton (e : SendEvent) :
    (sentEvents [e]).length = if e.answer = .ok then 1 else 0 := by
  by_cases ha : e.answer = .ok <;> simp [sentEvents, ha]

/-- A turn that keeps the session brings no START through the port (R116). -/
theorem portCommand_ne_start_of_keepsSession {now : Timestamp} {p : PortWord}
    (h : (Slot.host now p).keepsSession = true) (run : Bool) : portCommand p ≠ some (.start run) := by
  intro hp
  simp [Slot.keepsSession, hp] at h

/-- From `s` to `t` the history grows by events of which at most one is answered OK, and SENT_COUNT by
the number of those. -/
def OkAnswersCounted (s t : State) : Prop :=
  ∃ es : List SendEvent, t.history = s.history ++ es ∧ (sentEvents es).length ≤ 1 ∧
    t.regs.sentCount.toNat = s.regs.sentCount.toNat + (sentEvents es).length

theorem OkAnswersCounted.of_unchanged {s t : State} (hh : t.history = s.history)
    (hn : t.regs.sentCount = s.regs.sentCount) : OkAnswersCounted s t :=
  ⟨[], by simp [hh], by simp, by simp [hn]⟩

/-- A step that keeps the session adds to SENT_COUNT the number of new events that are answered OK, while
the sum fits (R126, R127, R128). -/
theorem step_okAnswersCounted {s t : State}
    (hkeep : ∀ slot ∈ s.schedule, slot.keepsSession = true)
    (hfits : s.regs.sentCount.toNat + 1 < 2 ^ 64) (h : step s = .next t) : OkAnswersCounted s t := by
  cases hs : s.schedule with
  | nil => rw [step_nil hs h]; exact .of_unchanged rfl rfl
  | cons slot rest =>
    have hslot : slot.keepsSession = true := hkeep slot (by simp [hs])
    cases slot with
    | reset => cases hslot
    | host now p =>
      obtain ⟨-, -, hh, hw⟩ := step_host hs h
      rcases hw with ⟨hr, -⟩ | ⟨-, -, ⟨-, -, e, -, hr⟩ | ⟨run, hp, -⟩ | ⟨-, hr⟩⟩
      · exact .of_unchanged hh (by rw [hr])
      · exact .of_unchanged hh (by rw [hr]; rfl)
      · exact absurd hp (portCommand_ne_start_of_keepsSession hslot run)
      · exact .of_unchanged hh (by rw [hr]; rfl)
    | controller now r =>
      obtain ⟨-, -, hw⟩ := step_controller hs h
      rcases hw with ⟨hr, hh, -⟩ | ⟨-, hh, hw⟩ | ⟨-, ⟨w, -, hh⟩, hw⟩ | ⟨hh, d, -, -, hw⟩
      · exact .of_unchanged hh (by rw [hr])
      · refine .of_unchanged hh ?_
        rcases hw with ⟨-, hr⟩ | ⟨-, -, hr⟩ | ⟨-, -, e, -, hr⟩ <;> rw [hr] <;> rfl
      · refine ⟨_, hh, ?_⟩
        rw [length_sentEvents_singleton]
        rcases hw with ⟨ha, n, hn, hr⟩ | ⟨ha, d, hr⟩ | ⟨e, ha, hr⟩
        · have hcount : t.regs.sentCount = n := by
            rcases hr with ⟨-, hr⟩ | ⟨-, d, hr⟩ <;> rw [hr] <;> rfl
          simp [ha, hcount, hn hfits]
        · simp [ha, hr]
        · simp [ha, hr]
      · refine .of_unchanged hh ?_
        rcases hw with ⟨-, hr⟩ | ⟨-, hr⟩ <;> rw [hr] <;> rfl

/-- After `k` steps of a session that began with the history `h` and SENT_COUNT = 0: the history only
grew, and SENT_COUNT is the number of new events answered OK, at most one for each step. -/
def CountsOkAnswers (h : List SendEvent) (k : Nat) (t : State) : Prop :=
  (∀ slot ∈ t.schedule, slot.keepsSession = true) ∧
  ∃ es : List SendEvent, t.history = h ++ es ∧ t.regs.sentCount.toNat = (sentEvents es).length ∧
    (sentEvents es).length ≤ k

theorem CountsOkAnswers.step {h : List SendEvent} {k : Nat} {s t : State} (hk : k + 1 < 2 ^ 64)
    (hs : CountsOkAnswers h k s) (hstep : step s = .next t) : CountsOkAnswers h (k + 1) t := by
  obtain ⟨hkeep, es, hhist, hcount, hle⟩ := hs
  obtain ⟨es', hhist', hle', hcount'⟩ := step_okAnswersCounted hkeep (by omega) hstep
  refine ⟨fun slot hm => hkeep slot (step_schedule_subset hstep hm), es ++ es', ?_, ?_, ?_⟩
  · rw [hhist', hhist, List.append_assoc]
  · simp [hcount', hcount]
  · simp only [sentEvents_append, List.length_append]
    omega

/-- Settles O59, by induction over the run: fewer than 2^64 steps cannot overflow SENT_COUNT. -/
theorem sentCountIsTheNumberOfOkAnswers : Obligations.SentCountIsTheNumberOfOkAnswers := by
  intro n s t hn _ hzero hkeep hrun
  have hstart : CountsOkAnswers s.history 0 s :=
    ⟨hkeep, [], by simp, by simp [hzero], by simp⟩
  have hend : 0 + n < 2 ^ 64 → CountsOkAnswers s.history (0 + n) t :=
    runs_induction (P := fun k u => k < 2 ^ 64 → CountsOkAnswers s.history k u)
      (fun _ _ _ hp hstep hk => (hp (Nat.lt_of_succ_lt hk)).step hk hstep) n 0 s t
      (fun _ => hstart) hrun
  obtain ⟨-, es, hhist, hcount, -⟩ := hend (by omega)
  rw [hcount, hhist, List.drop_left]

/-! ### Invariants of single registers -/

/-- Settles O49: every register write keeps the implication, and START writes both registers. -/
theorem initialImpliesLeftIsKept : Obligations.InitialImpliesLeftIsKept := by
  refine ⟨fun s t h hstep => (step_regWrite hstep).initialOnlyInLeft h, fun s t run hc h => ?_⟩
  have hrun : inRun s.regs.ctrl = false := by rcases hc with hc | hc | hc <;> rw [hc] <;> rfl
  rcases execStart_cases h with ⟨-, rfl⟩ | ⟨hr, -⟩
  · exact ⟨rfl, rfl⟩
  · rw [hrun] at hr
    cases hr

/-- Settles O52: `step_cfg` for every step. -/
theorem noStepChangesTheConfiguration : Obligations.NoStepChangesTheConfiguration :=
  fun _ _ h => step_cfg h

/-- Settles O54: the only code a step writes is the one a fatal answer is classified with. -/
theorem termCodeFitsErrWidth : Obligations.TermCodeFitsErrWidth := by
  intro s t hfits hstep
  rw [step_cfg hstep]
  exact (step_regWrite hstep).termCode_fits hfits

/-! ### Who writes which register (R27 to R33, R135) -/

/-- A host turn never writes FRAME_BUF, DEADLINE or the history; it writes the session's registers only
by an accepted START, and CANCEL only by START or CANCEL. -/
theorem step_host_writes {s t : State} {now : Timestamp} {p : PortWord} {rest : List Slot}
    (hs : s.schedule = .host now p :: rest) (h : step s = .next t) :
    (t.history = s.history ∧ t.regs.frameBuf = s.regs.frameBuf ∧ t.regs.deadline = s.regs.deadline) ∧
    (((∃ run, decode p = .ok (.start run)) ∧ t.regs.termCode = none) ∨
      (t.regs.sentCount = s.regs.sentCount ∧ t.regs.sessionStart = s.regs.sessionStart ∧
        t.regs.termReason = s.regs.termReason ∧ t.regs.termCode = s.regs.termCode ∧
        (t.regs.cancel = s.regs.cancel ∨ decode p = .ok .cancel))) := by
  have hdecode {i : Instr} (hp : portCommand p = some i) : decode p = .ok i :=
    ((portCommand_eq_some p i).mp hp).2
  obtain ⟨-, -, hh, hw⟩ := step_host hs h
  rcases hw with ⟨hr, -⟩ | ⟨-, -, ⟨-, -, e, -, hr⟩ | ⟨run, hp, -, hr⟩ | ⟨hp, hr⟩⟩ <;> rw [hh, hr]
  · exact ⟨⟨rfl, rfl, rfl⟩, .inr ⟨rfl, rfl, rfl, rfl, .inl rfl⟩⟩
  · exact ⟨⟨rfl, rfl, rfl⟩, .inr ⟨rfl, rfl, rfl, rfl, .inl rfl⟩⟩
  · exact ⟨⟨rfl, rfl, rfl⟩, .inl ⟨⟨run, hdecode hp⟩, rfl⟩⟩
  · exact ⟨⟨rfl, rfl, rfl⟩, .inr ⟨rfl, rfl, rfl, rfl, .inr (hdecode hp)⟩⟩

/-- A controller turn never writes SESSION_START or CANCEL; in READY it writes FRAME_BUF and
TERM_REASON, in SENDING what the transport's answer says, and elsewhere none of these registers. -/
theorem step_controller_writes {s t : State} {now : Timestamp} {r : SendResult} {rest : List Slot}
    (hs : s.schedule = .controller now r :: rest) (h : step s = .next t) :
    (t.regs.sessionStart = s.regs.sessionStart ∧ t.regs.cancel = s.regs.cancel) ∧
    (t.regs.sentCount = s.regs.sentCount ∨ (s.regs.ctrl = .sending ∧ classify s.cfg r = .ok)) ∧
    (t.regs.frameBuf = s.regs.frameBuf ∨ s.regs.ctrl = .ready) ∧
    (t.regs.deadline = s.regs.deadline ∨ (s.regs.ctrl = .sending ∧
      (classify s.cfg r = .ok ∧ 0 < s.cfg.pacing.toNat ∨ classify s.cfg r = .busy))) ∧
    (t.regs.termReason = s.regs.termReason ∨ s.regs.ctrl = .ready ∨
      (s.regs.ctrl = .sending ∧ ∃ c, classify s.cfg r = .fatal c)) ∧
    (t.regs.termCode = s.regs.termCode ∨
      (s.regs.ctrl = .sending ∧ ∃ c, classify s.cfg r = .fatal c ∧ t.regs.termCode = some c)) ∧
    (t.history = s.history ∨ s.regs.ctrl = .sending) := by
  obtain ⟨-, -, hw⟩ := step_controller hs h
  rcases hw with ⟨hr, hh, -⟩ | ⟨hc, hh, hw⟩ | ⟨hc, -, hw⟩ | ⟨hh, d, -, -, hw⟩
  · simp [hr, hh]
  · rcases hw with ⟨-, hr⟩ | ⟨-, -, hr⟩ | ⟨-, -, e, -, hr⟩ <;> simp [hr, hh, hc]
  · rcases hw with ⟨ha, n, -, ⟨-, hr⟩ | ⟨hp, d, hr⟩⟩ | ⟨ha, d, hr⟩ | ⟨e, ha, hr⟩
    · simp [hr, hc, ha]
    · have hpos : 0 < s.cfg.pacing.toNat := by bv_omega
      simp [hr, hc, ha, hpos]
    · simp [hr, hc, ha]
    · simp [hr, hc, ha]
  · rcases hw with ⟨-, hr⟩ | ⟨-, hr⟩ <;> simp [hr, hh]

/-- Settles O53, by the agent whose turn it is: what a host turn and what a controller turn write. -/
theorem registersChangeOnlyInTheirOwnSteps : Obligations.RegistersChangeOnlyInTheirOwnSteps := by
  intro s t slot rest hs h hslot
  cases slot with
  | reset => exact absurd rfl hslot
  | host now p =>
    obtain ⟨⟨hhist, hframe, hdead⟩, hw⟩ := step_host_writes hs h
    rcases hw with ⟨⟨run, hd⟩, hcode⟩ | ⟨hsent, hstart, hreason, hcode, hcancel⟩
    · have hstarts : ∃ now' p' run, Slot.host now p = .host now' p' ∧ decode p' = .ok (.start run) :=
        ⟨now, p, run, rfl, hd⟩
      exact ⟨fun _ => .inl hstarts, fun _ => hstarts, fun hne => absurd hframe hne,
        fun hne => absurd hdead hne, fun _ => .inl hstarts, fun _ => .inl ⟨hstarts, hcode⟩,
        fun _ => .inl hstarts, fun hne => absurd hhist hne⟩
    · exact ⟨fun hne => absurd hsent hne, fun hne => absurd hstart hne, fun hne => absurd hframe hne,
        fun hne => absurd hdead hne, fun hne => absurd hreason hne, fun hne => absurd hcode hne,
        fun hne => .inr ⟨now, p, rfl, hcancel.resolve_left hne⟩, fun hne => absurd hhist hne⟩
  | controller now r =>
    obtain ⟨⟨hstart, hcancel⟩, hsent, hframe, hdead, hreason, hcode, hhist⟩ :=
      step_controller_writes hs h
    refine ⟨fun hne => ?_, fun hne => absurd hstart hne, fun hne => ?_, fun hne => ?_, fun hne => ?_,
      fun hne => ?_, fun hne => absurd hcancel hne, fun hne => ?_⟩
    · obtain ⟨hc, ha⟩ := hsent.resolve_left hne
      exact .inr ⟨⟨now, r, rfl, ha⟩, hc⟩
    · exact ⟨⟨now, r, rfl⟩, hframe.resolve_left hne⟩
    · obtain ⟨hc, ⟨ha, hp⟩ | ha⟩ := hdead.resolve_left hne
      · exact .inl ⟨⟨⟨now, r, rfl, ha⟩, hc⟩, hp⟩
      · exact .inr ⟨⟨now, r, rfl, ha⟩, hc⟩
    · rcases hreason.resolve_left hne with hc | ⟨hc, c, ha⟩
      · exact .inr (.inl ⟨⟨now, r, rfl⟩, hc⟩)
      · exact .inr (.inr ⟨c, ⟨now, r, rfl, ha⟩, hc⟩)
    · obtain ⟨hc, c, ha, ht⟩ := hcode.resolve_left hne
      exact .inr ⟨c, ⟨⟨now, r, rfl, ha⟩, hc⟩, ht⟩
    · exact ⟨_, ⟨now, r, rfl, rfl⟩, hhist.resolve_left hne⟩

/-! ### READ (R36, R120) -/

/-- READ of a register that holds a value answers it and changes nothing else. -/
theorem exec_read_of_ok {s : State} {reg v : Nat} (h : readRegister s.regs reg = .ok v) :
    exec (.read reg) s = .next { s with outcome := .response (.ok (.value v)) } := by
  rw [exec, execRead, h]
  rfl

/-- READ of any other register answers the error and changes nothing else. -/
theorem exec_read_of_error {s : State} {reg : Nat} {e : CommandError}
    (h : readRegister s.regs reg = .error e) :
    exec (.read reg) s = .next { s with outcome := .response (.error e) } := by
  rw [exec, execRead, h]
  rfl

@[simp] theorem valueOrUnwritten_some (n : Nat) : valueOrUnwritten (some n) = .ok n := rfl
@[simp] theorem valueOrUnwritten_none : valueOrUnwritten none = .error .unwritten := rfl

/-- Settles O31: READ answers what `readRegister` gives, number by number of the map. -/
theorem readFollowsTheRegisterMap : Obligations.ReadFollowsTheRegisterMap := by
  refine ⟨fun _ => rfl, fun s => ⟨exec_read_of_ok rfl, exec_read_of_ok rfl, exec_read_of_ok rfl,
    exec_read_of_ok rfl, ?entryTime, ?noEntryTime, ?sessionStart, ?noSessionStart, exec_read_of_ok rfl,
    ?deadline, ?noDeadline, ?frameBuf, ?noFrameBuf, exec_read_of_ok rfl, ?termCode, ?noTermCode,
    exec_read_of_ok rfl, fun reg h => exec_read_of_error (readRegister_reserved s.regs reg h)⟩⟩
  case entryTime | sessionStart | deadline | frameBuf | termCode =>
    intro v h
    exact exec_read_of_ok (by simp [readRegister, h])
  case noEntryTime | noSessionStart | noDeadline | noFrameBuf | noTermCode =>
    intro h
    exact exec_read_of_error (by simp [readRegister, h])

/-! ### The reset state (R38) -/

/-- Settles O47: the reset registers field by field. -/
theorem resetStateHoldsTheSpecValues : Obligations.ResetStateHoldsTheSpecValues := rfl

end Sys2Proof.Machine
end

section
/-!
SUPPORT. The statements of 20_memory.md: the frame word's number (O8) and a cancelled run (O57).
-/

namespace Sys2Proof.Machine

/-! ### The frame word's number (R41) -/

/-- A byte appended below a bit vector is the last digit of its number in base 2^8. -/
theorem append_byte_toNat {n : Nat} (hi : BitVec n) (lo : Byte) :
    (hi ++ lo).toNat = hi.toNat * 2 ^ 8 + lo.toNat := by
  rw [BitVec.toNat_append, ← Nat.shiftLeft_add_eq_or_of_lt lo.isLt, Nat.shiftLeft_eq]

/-- Settles O8: the number is the bytes' sum in base 2^8, and `frameOfWord` inverts `frameWord`. -/
theorem frameWordHoldsByteIAtBitEightI : Obligations.FrameWordHoldsByteIAtBitEightI := by
  refine fun f => ⟨?_, frameOfWord_frameWord f⟩
  simp only [frameWord, append_byte_toNat]
  omega

/-! ### A cancelled run (R50, R122) -/

/-- The registers `r` of a session that was cancelled when its registers were `r₀`: nothing was ticked or
latched since then. That CTRL is not MANUAL is what keeps a host TICK from committing (R95). -/
def CancelledSince (r₀ r : Regs) : Prop :=
  r.toSeqState = r₀.toSeqState ∧ r.frameBuf = r₀.frameBuf ∧ r.cancel = true ∧ r.ctrl ≠ .manual ∧
    (r.ctrl = .done → r.termReason = .cancelled ∨ r.termReason = .fatal)

/-- In a cancelled session a host turn other than START can write CANCEL alone. -/
theorem CancelledSince.step_host {r₀ : Regs} {s t : State} {now : Timestamp} {p : PortWord}
    {rest : List Slot} (hinv : CancelledSince r₀ s.regs) (hs : s.schedule = .host now p :: rest)
    (hkeep : (Slot.host now p).keepsSession = true) (h : step s = .next t) :
    CancelledSince r₀ t.regs := by
  have ⟨hseq, hframe, _, hmanual, hdone⟩ := hinv
  obtain ⟨-, -, -, hw⟩ := Machine.step_host hs h
  rcases hw with ⟨hr, -⟩ | ⟨-, -, ⟨-, hc, -⟩ | ⟨run, hp, -⟩ | ⟨-, hr⟩⟩
  · rwa [hr]
  · exact absurd hc hmanual
  · exact absurd hp (portCommand_ne_start_of_keepsSession hkeep run)
  · rw [hr]
    exact ⟨hseq, hframe, rfl, hmanual, hdone⟩

/-- In a cancelled session ITERATE ends the run, so a controller turn never ticks or latches (R122). -/
theorem CancelledSince.step_controller {r₀ : Regs} {s t : State} {now : Timestamp} {r : SendResult}
    {rest : List Slot} (hinv : CancelledSince r₀ s.regs)
    (hs : s.schedule = .controller now r :: rest) (h : step s = .next t) :
    CancelledSince r₀ t.regs := by
  have ⟨hseq, hframe, hcancel, _, _⟩ := hinv
  have hset : s.regs.cancel ≠ false := by simp [hcancel]
  obtain ⟨-, -, hw⟩ := Machine.step_controller hs h
  rcases hw with ⟨hr, -⟩ | ⟨-, -, hw⟩ | ⟨-, -, hw⟩ | ⟨-, d, -, -, hw⟩
  · rwa [hr]
  · rcases hw with ⟨-, hr⟩ | ⟨hclear, -⟩ | ⟨hclear, -⟩
    · rw [hr]
      exact ⟨hseq, hframe, hcancel, nofun, fun _ => .inl rfl⟩
    · exact absurd hclear hset
    · exact absurd hclear hset
  · rcases hw with ⟨-, n, -, ⟨-, hr⟩ | ⟨-, d, hr⟩⟩ | ⟨-, d, hr⟩ | ⟨e, -, hr⟩ <;> rw [hr]
    · exact ⟨hseq, hframe, hcancel, nofun, nofun⟩
    · exact ⟨hseq, hframe, hcancel, nofun, nofun⟩
    · exact ⟨hseq, hframe, hcancel, nofun, nofun⟩
    · exact ⟨hseq, hframe, hcancel, nofun, fun _ => .inr rfl⟩
  · rcases hw with ⟨-, hr⟩ | ⟨-, hr⟩ <;> rw [hr] <;> exact ⟨hseq, hframe, hcancel, nofun, nofun⟩

/-- Every step without START and reset keeps a cancelled session. -/
theorem CancelledSince.step {r₀ : Regs} {s t : State} (hinv : CancelledSince r₀ s.regs)
    (hkeep : ∀ slot ∈ s.schedule, slot.keepsSession = true) (h : step s = .next t) :
    CancelledSince r₀ t.regs := by
  cases hs : s.schedule with
  | nil => rwa [step_nil hs h]
  | cons slot rest =>
    have hslot : slot.keepsSession = true := hkeep slot (by simp [hs])
    cases slot with
    | reset => cases hslot
    | host now p => exact hinv.step_host hs hslot h
    | controller now r => exact hinv.step_controller hs h

/-- Settles O57, by induction over the run: each step keeps `CancelledSince` and shrinks the schedule. -/
theorem afterCancelNoFrameIsMade : Obligations.AfterCancelNoFrameIsMade := by
  intro n s t hrunning hcancel hkeep hrun
  have hstart : CancelledSince s.regs s.regs := by
    refine ⟨rfl, rfl, hcancel, ?_, ?_⟩ <;> rcases hrunning with hc | hc | hc | hc <;> simp [hc]
  obtain ⟨-, hseq, hframe, hcancel', -, hdone⟩ :=
    runs_induction
      (P := fun _ u => (∀ slot ∈ u.schedule, slot.keepsSession = true) ∧ CancelledSince s.regs u.regs)
      (fun _ _ _ ⟨hk, hinv⟩ hstep =>
        ⟨fun slot hm => hk slot (step_schedule_subset hstep hm), hinv.step hk hstep⟩)
      n 0 s t ⟨hkeep, hstart⟩ hrun
  exact ⟨hseq, hframe, hcancel', hdone⟩

end Sys2Proof.Machine
end

section
/-!
SUPPORT. The statements of 30_encoding.md: decoding and encoding as one relation between a port word and
an instruction (O1 to O4), what a host turn answers (O6, O7, O42) and the fractions of a ramp sample (O22).
-/

namespace Sys2Proof.Machine

/-! ### A command word from its fields (R65, R67) -/

theorem ofFields_toNat (c : BitVec 1) (m : BitVec 3) (op : BitVec 4) :
    (CommandWord.ofFields c m op).toNat = 128 * c.toNat + 16 * m.toNat + op.toNat := by
  unfold CommandWord.ofFields
  rw [BitVec.toNat_append, ← Nat.shiftLeft_add_eq_or_of_lt op.isLt, BitVec.toNat_append,
    ← Nat.shiftLeft_add_eq_or_of_lt m.isLt, Nat.shiftLeft_eq, Nat.shiftLeft_eq]
  omega

@[simp] theorem classBit_ofFields (c : Bool) (m : BitVec 3) (op : BitVec 4) :
    CommandWord.classBit (CommandWord.ofFields (BitVec.ofBool c) m op) = c := by
  rw [classBit_eq, ofFields_toNat]
  have := m.isLt
  have := op.isLt
  cases c <;> simp <;> omega

@[simp] theorem modifier_ofFields (c : BitVec 1) (m : BitVec 3) (op : BitVec 4) :
    CommandWord.modifier (CommandWord.ofFields c m op) = m := by
  apply BitVec.eq_of_toNat_eq
  rw [modifier_toNat, ofFields_toNat]
  omega

@[simp] theorem operation_ofFields (c : BitVec 1) (m : BitVec 3) (op : BitVec 4) :
    CommandWord.operation (CommandWord.ofFields c m op) = op := by
  apply BitVec.eq_of_toNat_eq
  rw [operation_toNat, ofFields_toNat]
  omega

/-- The three fields determine the word. -/
theorem word_eq_ofFields {w : CommandWord} {c : Bool} {m : BitVec 3} {op : Nat}
    (hc : CommandWord.classBit w = c) (hm : CommandWord.modifier w = m)
    (ho : (CommandWord.operation w).toNat = op) :
    w = CommandWord.ofFields (BitVec.ofBool c) m (BitVec.ofNat 4 op) := by
  subst hc hm ho
  apply BitVec.eq_of_toNat_eq
  rw [ofFields_toNat, classBit_eq, modifier_toNat, BitVec.ofNat_toNat, BitVec.setWidth_eq,
    operation_toNat]
  have := w.isLt
  by_cases h : 128 ≤ w.toNat <;> simp [h] <;> omega

/-- `run` is word bit 4 (R67). -/
theorem runBit_eq (w : CommandWord) : CommandWord.runBit w = decide (w.toNat / 16 % 2 = 1) :=
  Nat.testBit_eq_decide_div_mod_eq

/-- With its reserved bits 00, START's modifier is its operand (R67). -/
theorem modifier_of_startReserved {w : CommandWord} (h : CommandWord.startReserved w = 0) :
    CommandWord.modifier w = if CommandWord.runBit w then 0b001 else 0b000 := by
  have hr : w.toNat / 32 % 4 = 0 := by rw [← startReserved_toNat, h]; rfl
  apply BitVec.eq_of_toNat_eq
  rw [modifier_toNat, runBit_eq]
  by_cases hb : w.toNat / 16 % 2 = 1 <;> simp [hb] <;> omega

/-! ### Decoding and encoding (R66 to R68) -/

/-- The lane an instruction reads holds its operand (R68, log 13). START's operand is in its word (R67). -/
def CarriesOperand (p : PortWord) : Instr → Prop
  | .encode smp => p.sample = smp
  | .decode f => p.frame = f
  | .tick => True
  | .start _ => True
  | .cancel => True
  | .read reg => p.reg.toNat = reg
  | .iterate => True
  | .send => True
  | .waitExpire => True

theorem plainOperation_word {w : CommandWord} {c : Bool} {op : Nat} {i j : Instr}
    (hc : CommandWord.classBit w = c) (ho : (CommandWord.operation w).toNat = op)
    (h : plainOperation w i = .ok j) :
    w = CommandWord.ofFields (BitVec.ofBool c) 0 (BitVec.ofNat 4 op) ∧ i = j := by
  obtain ⟨hm, hij⟩ := (plainOperation_eq_ok _ _ _).mp h
  exact ⟨word_eq_ofFields hc hm ho, hij⟩

theorem startOperation_word {w : CommandWord} {j : Instr} (hc : CommandWord.classBit w = false)
    (ho : (CommandWord.operation w).toNat = 4) (h : startOperation w = .ok j) :
    w = encodeWord (.start (CommandWord.runBit w)) ∧ .start (CommandWord.runBit w) = j := by
  obtain ⟨hr, hj⟩ := (startOperation_eq_ok _ _).mp h
  have hw := word_eq_ofFields hc (modifier_of_startReserved hr) ho
  exact ⟨by rw [encodeWord]; exact hw, hj⟩

/-- What decodes to an instruction is that instruction's word with its operand beside it. -/
theorem word_of_decode {p : PortWord} {i : Instr} (h : decode p = .ok i) :
    p.word = encodeWord i ∧ CarriesOperand p i := by
  unfold decode at h
  generalize hc : CommandWord.classBit p.word = c, ho : (CommandWord.operation p.word).toNat = op at h
  revert h
  fun_cases decodeOperation c op p <;> intro h
  case case4 =>
    obtain ⟨hw, rfl⟩ := startOperation_word hc ho h
    exact ⟨hw, trivial⟩
  case case7 => cases h
  case case11 => cases h
  all_goals
    obtain ⟨hw, rfl⟩ := plainOperation_word hc ho h
    exact ⟨hw, by simp only [CarriesOperand]⟩

/-- A word with modifier 000 decodes to the operation its class and operation code select. -/
theorem decode_plain {p : PortWord} (c : Bool) (op : BitVec 4) {i : Instr}
    (hw : p.word = CommandWord.ofFields (BitVec.ofBool c) 0 op)
    (hd : decodeOperation c op.toNat p = plainOperation p.word i) : decode p = .ok i := by
  rw [decode_eq p (c := c) (op := op.toNat) (by simp [hw]) (by simp [hw]), hd, plainOperation_eq_ok]
  simp [hw]

theorem decode_start {p : PortWord} {run : Bool} (hw : p.word = encodeWord (.start run)) :
    decode p = .ok (.start run) := by
  have hd : decode p = startOperation p.word :=
    decode_eq p (c := false) (op := 4) (by rw [hw]; cases run <;> rfl) (by rw [hw]; cases run <;> rfl)
  rw [hd, startOperation_eq_ok, hw]
  cases run <;> exact ⟨rfl, rfl⟩

/-- An instruction's word with its operand beside it decodes to the instruction. -/
theorem decode_of_word {p : PortWord} {i : Instr} (hw : p.word = encodeWord i)
    (hop : CarriesOperand p i) : decode p = .ok i := by
  cases i with
  | encode smp => exact decode_plain false 1 hw (by rw [← hop]; rfl)
  | decode f => exact decode_plain false 2 hw (by rw [← hop]; rfl)
  | tick => exact decode_plain false 3 hw rfl
  | start run => exact decode_start hw
  | cancel => exact decode_plain false 5 hw rfl
  | read reg => exact decode_plain false 6 hw (by rw [← hop]; rfl)
  | iterate => exact decode_plain true 1 hw rfl
  | send => exact decode_plain true 2 hw rfl
  | waitExpire => exact decode_plain true 3 hw rfl

@[simp] theorem encode_word (i : Instr) : (encode i).word = encodeWord i := by
  cases i <;> rfl

theorem encode_carriesOperand {i : Instr} (hi : i.wellFormed = true) : CarriesOperand (encode i) i := by
  cases i with
  | encode smp => rfl
  | decode f => rfl
  | read reg => exact Nat.mod_eq_of_lt (of_decide_eq_true hi)
  | _ => trivial

/-- A register number in the port's lane is a `u8`. -/
theorem CarriesOperand.wellFormed {p : PortWord} {i : Instr} (h : CarriesOperand p i) :
    i.wellFormed = true := by
  cases i with
  | read reg => exact decide_eq_true (h ▸ p.reg.isLt)
  | _ => rfl

/-- Settles O3: the encoder writes the word and the operand that the decoder reads. -/
theorem decodeOfEncodeIsTheInstruction : Obligations.DecodeOfEncodeIsTheInstruction := fun i hi =>
  decode_of_word (encode_word i) (encode_carriesOperand hi)

/-- Settles O4: what decodes is the instruction's word with its operand beside it. -/
theorem encodeOfDecodeIsTheWord : Obligations.EncodeOfDecodeIsTheWord := by
  intro p i h
  obtain ⟨hw, hop⟩ := word_of_decode h
  refine ⟨hop.wellFormed, (encode_word i).trans hw.symm, ?_, ?_, ?_⟩
  · rintro smp rfl
    exact hop.symm
  · rintro f rfl
    exact hop.symm
  · rintro reg rfl
    cases hop
    exact BitVec.ofNat_toNat _ p.reg

/-- Settles O1: each word is the fields of its row, put together. -/
theorem commandWordsAreThoseOfTheTable : Obligations.CommandWordsAreThoseOfTheTable :=
  ⟨fun _ => rfl, fun _ => rfl, rfl, rfl, rfl, rfl, fun _ => rfl, rfl, rfl, rfl⟩

/-- Settles O2: each word is its instruction's, with the operand in its lane. -/
theorem wordsOfEveryFamilyDecodeRight : Obligations.WordsOfEveryFamilyDecodeRight :=
  ⟨decode_of_word rfl rfl, decode_of_word rfl trivial, decode_of_word rfl trivial,
    decode_of_word rfl rfl, decode_of_word rfl trivial⟩

/-! ### Host turns and steps that are not enabled (R15, R70, R71) -/

/-- The reserved words of class 0 (R70). -/
def ReservedHostWord (w : CommandWord) : Prop :=
  let c := w.toNat / 128
  let m := w.toNat / 16 % 8
  let op := w.toNat % 16
  c = 0 ∧ ((op = 0 ∨ 7 ≤ op) ∨
    ((op = 1 ∨ op = 2 ∨ op = 3 ∨ op = 5 ∨ op = 6) ∧ m ≠ 0) ∨ (op = 4 ∧ m / 2 ≠ 0))

theorem encodeWord_not_reserved (i : Instr) : ¬ ReservedHostWord (encodeWord i) := by
  unfold ReservedHostWord
  cases i with
  | start run => cases run <;> decide
  | _ => simp [encodeWord, ofFields_toNat]

theorem portCommand_of_reserved {p : PortWord} (h : ReservedHostWord p.word) : portCommand p = none := by
  refine (portCommand_eq_none p).mpr (.inr fun i hd => ?_)
  obtain ⟨hw, -⟩ := word_of_decode hd
  exact encodeWord_not_reserved i (hw ▸ h)

/-- A host turn whose word the port refuses answers ILLEGAL_COMMAND. -/
theorem step_of_refused {s : State} {now : Timestamp} {p : PortWord} {rest : List Slot}
    (hs : s.schedule = .host now p :: rest) (hp : portCommand p = none) :
    step s = .next (raise .illegalCommand ((s.dropTurn rest).setNow now)) := by
  simp [step, hs, takeTurn, hostTurn, hp]

/-- A host turn whose word the port accepts runs the command it names. -/
theorem step_of_accepted {s : State} {now : Timestamp} {p : PortWord} {rest : List Slot} {i : Instr}
    (hs : s.schedule = .host now p :: rest) (hp : portCommand p = some i) :
    step s = exec i ((s.dropTurn rest).setNow now) := by
  simp [step, hs, takeTurn, hostTurn, hp]

/-- Settles O6: the port refuses a reserved word, since no instruction has it. -/
theorem reservedHostWordsAnswerIllegalCommand : Obligations.ReservedHostWordsAnswerIllegalCommand :=
  fun _ _ _ _ hs hres =>
    ⟨_, step_of_refused hs (portCommand_of_reserved hres), rfl, rfl, rfl, rfl⟩

/-- ITERATE outside READY is not enabled (R121). -/
theorem exec_iterate_of_ne {s : State} (h : s.regs.ctrl ≠ .ready) : exec .iterate s = .next (stuck s) :=
  congrArg Host.Outcome.next (if_neg h)

/-- SEND outside SENDING is not enabled (R125). -/
theorem exec_send_of_ne {s : State} (h : s.regs.ctrl ≠ .sending) : exec .send s = .next (stuck s) :=
  congrArg Host.Outcome.next (if_neg h)

/-- WAIT_EXPIRE outside BACKOFF and PACING is not enabled (R129, R130). -/
theorem exec_waitExpire_of_ne {s : State} (hb : s.regs.ctrl ≠ .backoff) (hp : s.regs.ctrl ≠ .pacing) :
    exec .waitExpire s = .next (stuck s) := by
  obtain ⟨t, ht⟩ := exec_next .waitExpire s
  rcases execWaitExpire_cases ht with ⟨hc, -⟩ | ⟨hc, -⟩ | ⟨-, rfl⟩
  · exact absurd hc hb
  · exact absurd hc hp
  · exact ht

/-- Settles O7: the port refuses class 1, and an internal step that CTRL does not enable is stuck. -/
theorem internalStepsAreRefusedOnThePortAndGuardedByCtrl :
    Obligations.InternalStepsAreRefusedOnThePortAndGuardedByCtrl := by
  refine ⟨fun s now p rest hs hw => ?_, fun s => ⟨fun h => ?_, fun h => ?_, fun hb hp => ?_⟩⟩
  · exact ⟨_, step_of_refused hs ((portCommand_eq_none p).mpr (.inl hw)), rfl, rfl, rfl, rfl⟩
  · exact ⟨_, exec_iterate_of_ne h, rfl, rfl⟩
  · exact ⟨_, exec_send_of_ne h, rfl, rfl⟩
  · exact ⟨_, exec_waitExpire_of_ne hb hp, rfl, rfl⟩

/-- Settles O42: the port accepts a class 0 word that decodes. -/
theorem hostTurnRunsTheDecodedCommand : Obligations.HostTurnRunsTheDecodedCommand :=
  fun _ _ p _ i hs hd hw => step_of_accepted hs ((portCommand_eq_some p i).mpr ⟨hw, hd⟩)

/-! ### The fractions of a ramp sample (R63, R100, R101) -/

theorem tickSample_angle_ramp (st : SeqState) {c : Cfg} {e : Nat} (h : e < c.tTrans.toNat) :
    (tickSample c st e).angle = rampAngle (anchorOf c st) (targetOf c st) e c.tTrans.toNat := by
  rw [tickSample, if_pos h]

theorem tickSample_rate_ramp (st : SeqState) {c : Cfg} {e : Nat} (h : e < c.tTrans.toNat) :
    (tickSample c st e).rate = rampRate (anchorOf c st) (targetOf c st) c.timerHz c.tTrans.toNat := by
  rw [tickSample, if_pos h]

/-- The ramp's angle over one common denominator. -/
theorem rampAngle_eq_div (a g : ℤ) (e : Nat) {t : Nat} (ht : t ≠ 0) :
    rampAngle a g e t = ((a * t + (g - a) * e : ℤ) : ℚ) / ((10 * t : ℕ) : ℚ) := by
  have : (t : ℚ) ≠ 0 := Nat.cast_ne_zero.mpr ht
  unfold rampAngle
  push_cast
  field_simp

/-- The ramp's rate as a quotient of integers. -/
theorem rampRate_eq_div (a g : ℤ) (hz t : Nat) :
    rampRate a g hz t = ((|g - a| * hz : ℤ) : ℚ) / ((40 * t : ℕ) : ℚ) := by
  unfold rampRate
  rw [Nat.cast_natAbs]
  push_cast
  rfl

/-- Settles O22: `T` is positive while `e < T`, so the angle has the common denominator `10·T`. -/
theorem sampleValuesAreTheNamedFractions : Obligations.SampleValuesAreTheNamedFractions := by
  intro c st e he
  rw [tickSample_angle_ramp st he, tickSample_rate_ramp st he]
  exact ⟨rampAngle_eq_div _ _ e (Nat.ne_zero_of_lt he), rampRate_eq_div _ _ _ _⟩

end Sys2Proof.Machine
end

section
/-!
SUPPORT. The statements of 40_codec.md: `round` and `quant` by case and against the clamps (O9, O11, O12),
the fields of an encoded and of a decoded frame (O13, O14, O16, O18), the two round trips (O15, O17), and
what the codec's answers depend on (O19).
-/

namespace Sys2Proof.Machine

/-! ### `round` and `quant` by case (R79, R80) -/

theorem roundRat_of_fraction_lt (ties : RoundTies) {x : ℚ} (h : x - ⌊x⌋ < 1 / 2) :
    roundRat ties x = ⌊x⌋ := if_pos h

theorem roundRat_of_lt_fraction (ties : RoundTies) {x : ℚ} (h : 1 / 2 < x - ⌊x⌋) :
    roundRat ties x = ⌊x⌋ + 1 := (if_neg h.not_gt).trans (if_pos h)

theorem roundTie_even (x : ℚ) (n : ℤ) : roundTie .even x n = if Even n then n else n + 1 := by
  simp only [roundTie, Int.even_iff]

theorem roundTie_away (x : ℚ) (n : ℤ) : roundTie .away x n = if 0 < x then n + 1 else n := rfl

/-- Settles O9: below and above one half the fraction decides, at one half the tie rule. -/
theorem roundFollowsFloorFractionAndTieRule : Obligations.RoundFollowsFloorFractionAndTieRule := by
  intro ties x
  refine ⟨roundRat_of_fraction_lt ties, roundRat_of_lt_fraction ties, fun h => ?_⟩
  have hx : x = ⌊x⌋ + 1 / 2 := eq_add_of_sub_eq' h
  rw [roundRat_eq_roundTie .even hx, roundRat_eq_roundTie .away hx]
  exact ⟨roundTie_even x ⌊x⌋, roundTie_away x ⌊x⌋⟩

theorem quantRat_of_round {c : Cfg} (h : c.rateQuant = .round) (r : ℚ) :
    quantRat c r = roundRat c.roundTies r := by rw [quantRat, h]

theorem quantRat_of_trunc {c : Cfg} (h : c.rateQuant = .trunc) (r : ℚ) : quantRat c r = ⌊r⌋ := by
  rw [quantRat, h, floor_eq]

/-- Settles O11: `quant` is monotone against the integer bounds 0 and 255. -/
theorem quantRoundsOrTruncatesIntoAByte : Obligations.QuantRoundsOrTruncatesIntoAByte :=
  fun c r h0 h255 => ⟨fun h => quantRat_of_round h r, fun h => quantRat_of_trunc h r,
    le_quantRat c (by exact_mod_cast h0), quantRat_le c (by exact_mod_cast h255)⟩

/-! ### Clamps and conversions commute (R88) -/

theorem clampRat_mul (v lo hi : ℚ) {m : ℚ} (hm : 0 < m) :
    clampRat v lo hi * m = clampRat (v * m) (lo * m) (hi * m) := by
  simp only [clampRat, ite_mul, mul_lt_mul_iff_left₀ hm]

/-- A conversion to integers that respects integer bounds on either side commutes with a clamp between
integers. -/
theorem conversion_clampRat {g : ℚ → ℤ} (hle : ∀ {x : ℚ} {k : ℤ}, (k : ℚ) ≤ x → k ≤ g x)
    (hge : ∀ {x : ℚ} {k : ℤ}, x ≤ (k : ℚ) → g x ≤ k) (x : ℚ) {lo hi : ℤ} (h : lo ≤ hi) :
    g (clampRat x lo hi) = clampInt (g x) lo hi := by
  have hfix (k : ℤ) : g k = k := le_antisymm (hge le_rfl) (hle le_rfl)
  unfold clampRat
  split_ifs with hlo hhi
  · have : g x ≤ lo := hge hlo.le
    rw [hfix, clampInt]
    split_ifs <;> omega
  · have : hi ≤ g x := hle hhi.le
    rw [hfix, clampInt]
    split_ifs <;> omega
  · exact (clampInt_of_mem (hle (not_lt.mp hlo)) (hge (not_lt.mp hhi))).symm

/-- Settles O12: `round` and `quant` respect integer bounds, and the angle's bounds are integers once
scaled by 10. -/
theorem clampAndRoundCommute : Obligations.ClampAndRoundCommute := by
  refine ⟨fun ties x => ?_, fun c r => ?_⟩
  · have hscale : clampRat x (-32768 / 10) (32767 / 10) * 10 =
        clampRat (x * 10) (-32768 : ℤ) (32767 : ℤ) := by
      rw [clampRat_mul _ _ _ (by norm_num)]
      norm_num
    rw [hscale]
    exact conversion_clampRat (le_roundRat ties) (roundRat_le ties) _ (by norm_num)
  · exact_mod_cast
      conversion_clampRat (lo := 0) (hi := 255) (le_quantRat c) (quantRat_le c) r (by norm_num)

/-! ### What ENCODE and DECODE answer (R82, R85) -/

theorem exec_encode (smp : SignalSample) (s : State) : exec (.encode smp) s =
    .next { s with outcome := .response (.ok (.frame (encodeFrame s.cfg smp))) } := rfl

theorem exec_decode (f : WireFrame) (s : State) : exec (.decode f) s =
    .next { s with outcome := .response (.ok (.decoded (decodeFrame f))) } := rfl

/-- Bytes 0 and 1 of an encoded frame are the raw angle in two's complement (R83). -/
theorem encodeFrame_angle (c : Cfg) (smp : SignalSample) :
    (((encodeFrame c smp).b0.toNat + 256 * (encodeFrame c smp).b1.toNat : ℕ) : ℤ) =
      if rawAngle c smp.angle < 0 then rawAngle c smp.angle + 65536 else rawAngle c smp.angle := by
  obtain ⟨hlo, hhi⟩ := rawAngle_range c smp.angle
  rw [← rawWord_toNat hlo hhi, ← angle_bytes_toNat (rawWord _)]
  rfl

theorem encodeFrame_rate (c : Cfg) (smp : SignalSample) :
    ((encodeFrame c smp).b2.toNat : ℤ) = rateNumber c smp.rate := by
  obtain ⟨hlo, hhi⟩ := rateNumber_range c smp.rate
  exact toNat_ofInt_of_mem hlo (by omega)

theorem encodeFrame_status (c : Cfg) (smp : SignalSample) :
    ((encodeFrame c smp).b3.toNat : ℤ) = clampStatus smp.status := by
  obtain ⟨hlo, hhi⟩ : 0 ≤ clampStatus smp.status ∧ clampStatus smp.status ≤ 255 :=
    clampInt_range (by norm_num)
  exact toNat_ofInt_of_mem hlo (by omega)

/-- Byte 4 of an encoded frame holds the sequence above the checksum of bytes 0 to 3 (R84). -/
theorem encodeFrame_sequence_checksum (c : Cfg) (smp : SignalSample) :
    ((encodeFrame c smp).b4.toNat : ℤ) =
      16 * clampSequence smp.sequence + ((chk (encodeFrame c smp)).toNat : ℤ) := by
  obtain ⟨hlo, hhi⟩ : 0 ≤ clampSequence smp.sequence ∧ clampSequence smp.sequence ≤ 15 :=
    clampInt_range (by norm_num)
  have hq := toNat_ofInt_of_mem (w := 4) hlo (by omega)
  rw [← hq]
  exact_mod_cast append_toNat (BitVec.ofInt 4 _) (chk (encodeFrame c smp))

theorem chk_toNat (f : WireFrame) : (chk f).toNat = (f.b0 ^^^ f.b1 ^^^ f.b2 ^^^ f.b3).toNat % 16 :=
  checksumOf_toNat _ _ _ _

/-- Settles O13: the fields of the encoded frame, one by one. -/
theorem encodePacksTheClampedSample : Obligations.EncodePacksTheClampedSample := by
  intro smp s
  refine ⟨rfl, encodeFrame s.cfg smp, exec_encode smp s, encodeFrame_angle _ _, encodeFrame_rate _ _,
    encodeFrame_status _ _, ?_, rfl, rfl, rfl⟩
  rw [← chk_toNat]
  exact encodeFrame_sequence_checksum _ _

/-- Settles O14: the fields of the decoded frame, one by one. -/
theorem decodeUnpacksEveryFrame : Obligations.DecodeUnpacksEveryFrame := fun f s =>
  ⟨rfl, decodeFrame f, exec_decode f s, signedRaw_eq f.b0 f.b1, rfl, rfl, rfl, highNibble_toNat f.b4,
    lowNibble_toNat f.b4, chk_toNat f, csOk_iff f, rsvNz_iff f⟩

/-- Settles O16: an encoded frame is well-formed, read as numbers. -/
theorem encodedFramesAreWellFormed : Obligations.EncodedFramesAreWellFormed := by
  intro smp s
  obtain ⟨hcs, h5, h6, h7⟩ := (frameWellFormed_iff _).mp (encodeFrame_wellFormed s.cfg smp)
  refine ⟨encodeFrame s.cfg smp, _, exec_encode smp s, rfl, ?_, h5, h6, h7⟩
  rw [← chk_toNat, ← hcs]
  exact (lowNibble_toNat _).symm

/-- The conversions of ENCODE read ROUND_TIES and RATE_QUANT alone (R92). -/
theorem encodeFrame_congr {c c' : Cfg} (ht : c.roundTies = c'.roundTies)
    (hq : c.rateQuant = c'.rateQuant) (smp : SignalSample) : encodeFrame c smp = encodeFrame c' smp := by
  simp only [encodeFrame, rawAngle, rateNumber, quantRat, ht, hq]

/-- Settles O19: the answers are functions of the operand, and ENCODE's of two parameters besides. -/
theorem codecAnswersDependOnOperandsAlone : Obligations.CodecAnswersDependOnOperandsAlone := by
  refine fun s s' => ⟨fun smp ht hq => ⟨_, exec_encode smp s, ?_⟩,
    fun f => ⟨_, exec_decode f s, exec_decode f s'⟩⟩
  rw [encodeFrame_congr ht hq]
  exact exec_encode smp s'

/-! ### The bytes of a raw angle (R56, R94) -/

theorem rawWord_signedRaw (b0 b1 : Byte) : rawWord (signedRaw b0 b1) = b1 ++ b0 := BitVec.ofInt_toInt

@[simp] theorem angleLow_append (b0 b1 : Byte) : angleLow (b1 ++ b0) = b0 := append_low b1 b0

@[simp] theorem angleHigh_append (b0 b1 : Byte) : angleHigh (b1 ++ b0) = b1 := by
  rw [angleHigh, append_above b1 b0 le_rfl, BitVec.extractLsb'_eq_self]

/-- The two bytes that hold a raw angle are determined by it. -/
theorem signedRaw_eq_iff {k : ℤ} (hlo : -32768 ≤ k) (hhi : k ≤ 32767) (b0 b1 : Byte) :
    signedRaw b0 b1 = k ↔ b0 = angleLow (rawWord k) ∧ b1 = angleHigh (rawWord k) := by
  constructor
  · rintro rfl
    simp [rawWord_signedRaw]
  · rintro ⟨rfl, rfl⟩
    rw [signedRaw_angle, rawWord_toInt hlo hhi]

/-- Settles O18: `raw` lies in s16, and each of its values has one pair of bytes. -/
theorem decodedAnglesCoverTheRangeOnce : Obligations.DecodedAnglesCoverTheRangeOnce := by
  constructor
  · intro f
    obtain ⟨hlo, hhi⟩ := signedRaw_range f.b0 f.b1
    have hlo' : (-32768 : ℚ) ≤ signedRaw f.b0 f.b1 := by exact_mod_cast hlo
    have hhi' : (signedRaw f.b0 f.b1 : ℚ) ≤ 32767 := by exact_mod_cast hhi
    exact ⟨rfl, div_le_div_of_nonneg_right hlo' (by norm_num),
      div_le_div_of_nonneg_right hhi' (by norm_num)⟩
  · intro k hlo hhi
    refine ⟨(angleLow (rawWord k), angleHigh (rawWord k)), fun f h0 h1 => ?_, fun b hb => ?_⟩
    · exact (signedRaw_eq_iff hlo hhi _ _).mpr ⟨h0, h1⟩
    · have hraw := hb { WireFrame.zero with b0 := b.1, b1 := b.2 } rfl rfl
      obtain ⟨h0, h1⟩ := (signedRaw_eq_iff hlo hhi b.1 b.2).mp hraw
      exact Prod.ext h0 h1

/-! ### The two round trips (R89, R91) -/

/-- The angle `k/10` of a raw value in range is neither clamped nor rounded. -/
theorem rawAngle_of_tenths (c : Cfg) {k : ℤ} (hlo : -32768 ≤ k) (hhi : k ≤ 32767) :
    rawAngle c ((k : ℚ) / 10) = k := by
  have hlo' : (-32768 : ℚ) ≤ k := by exact_mod_cast hlo
  have hhi' : (k : ℚ) ≤ 32767 := by exact_mod_cast hhi
  have hclamp : clampAngle ((k : ℚ) / 10) = (k : ℚ) / 10 :=
    clampRat_of_mem (div_le_div_of_nonneg_right hlo' (by norm_num))
      (div_le_div_of_nonneg_right hhi' (by norm_num))
  rw [rawAngle, hclamp, div_mul_cancel₀ _ (by norm_num), roundRat_intCast]

/-- An integer rate in range is neither clamped nor rounded. -/
theorem rateNumber_intCast (c : Cfg) {r : ℤ} (hlo : 0 ≤ r) (hhi : r ≤ 255) :
    rateNumber c (r : ℚ) = r := by
  have hclamp : clampRate (r : ℚ) = r :=
    clampRat_of_mem (by exact_mod_cast hlo) (by exact_mod_cast hhi)
  rw [rateNumber, hclamp, quantRat_intCast]

/-- A sample in range is packed as it stands, under every parameter value. -/
theorem encodeFrame_of_mem (c : Cfg) {k r st q : ℤ} (hk : -32768 ≤ k ∧ k ≤ 32767)
    (hr : 0 ≤ r ∧ r ≤ 255) (hst : 0 ≤ st ∧ st ≤ 255) (hq : 0 ≤ q ∧ q ≤ 15) :
    encodeFrame c ⟨(k : ℚ) / 10, r, st, q⟩ =
      packFrame (rawWord k) (BitVec.ofInt 8 r) (BitVec.ofInt 8 st) (BitVec.ofInt 4 q) := by
  have hs : clampStatus st = st := clampInt_of_mem hst.1 hst.2
  have hc : clampSequence q = q := clampInt_of_mem hq.1 hq.2
  rw [encodeFrame, rawAngle_of_tenths c hk.1 hk.2, rateNumber_intCast c hr.1 hr.2, hs, hc]

theorem signedRaw_packFrame (u : BitVec 16) (r st : Byte) (q : Nibble) :
    signedRaw (packFrame u r st q).b0 (packFrame u r st q).b1 = u.toInt := signedRaw_angle u

/-- DECODE takes apart what `packFrame` put together. -/
theorem decodeFrame_packFrame (u : BitVec 16) (r st : Byte) (q : Nibble) :
    decodeFrame (packFrame u r st q) =
      { raw := u.toInt, angle := (u.toInt : ℚ) / 10, rate := r, status := st, sequence := q,
        checksum := chk (packFrame u r st q), checksumCalc := chk (packFrame u r st q),
        csOk := true, rsvNz := false } := by
  obtain ⟨hcs, hrsv⟩ : csOk (packFrame u r st q) = true ∧ rsvNz (packFrame u r st q) = false := by
    simpa [frameWellFormed] using packFrame_wellFormed u r st q
  rw [decodeFrame, signedRaw_packFrame, packFrame_storedSequence, packFrame_storedChecksum, hcs, hrsv]
  rfl

/-- Settles O15: a sample in range is packed as it stands, and DECODE takes the frame apart. -/
theorem decodeOfEncodeGivesTheSampleBack : Obligations.DecodeOfEncodeGivesTheSampleBack := by
  intro s k rate status sequence hk0 hk1 hr0 hr1 hst0 hst1 hq0 hq1
  refine ⟨_, _, _, exec_encode _ s, rfl, exec_decode _ _, ?_⟩
  rw [encodeFrame_of_mem s.cfg ⟨hk0, hk1⟩ ⟨hr0, hr1⟩ ⟨hst0, hst1⟩ ⟨hq0, hq1⟩, decodeFrame_packFrame,
    rawWord_toInt hk0 hk1]
  exact ⟨rfl, rfl, toNat_ofInt_of_mem hr0 (by omega), toNat_ofInt_of_mem hst0 (by omega),
    toNat_ofInt_of_mem hq0 (by omega), rfl, rfl⟩

theorem storedSequence_append_storedChecksum (f : WireFrame) :
    storedSequence f ++ storedChecksum f = f.b4 := by
  apply BitVec.eq_of_toNat_eq
  rw [append_toNat, storedSequence, storedChecksum, highNibble_toNat, lowNibble_toNat]
  omega

/-- A frame with its checksum nibble corrected and its reserved bytes cleared (R91). -/
def correctedFrame (f : WireFrame) : WireFrame :=
  { f with b4 := storedSequence f ++ chk f, b5 := 0, b6 := 0, b7 := 0 }

theorem correctedFrame_of_wellFormed {f : WireFrame} (h : frameWellFormed f = true) :
    correctedFrame f = f := by
  obtain ⟨hcs, h5, h6, h7⟩ := (frameWellFormed_iff f).mp h
  rw [correctedFrame, ← hcs, storedSequence_append_storedChecksum]
  cases f
  cases h5
  cases h6
  cases h7
  rfl

/-- Packing the fields of a frame again corrects it. -/
theorem packFrame_fields (f : WireFrame) :
    packFrame (f.b1 ++ f.b0) f.b2 f.b3 (storedSequence f) = correctedFrame f := by
  rw [packFrame, angleLow_append, angleHigh_append]
  rfl

theorem ofInt_toNat {w : Nat} (b : BitVec w) : BitVec.ofInt w (b.toNat : ℤ) = b := by
  rw [BitVec.ofInt_natCast, BitVec.ofNat_toNat, BitVec.setWidth_eq]

/-- Every decoded field is in ENCODE's range, so encoding packs it as it stands. -/
theorem encodeFrame_decodeFrame (c : Cfg) (f : WireFrame) :
    encodeFrame c ⟨(decodeFrame f).angle, ((decodeFrame f).rate.toNat : ℚ),
      (decodeFrame f).status.toNat, (decodeFrame f).sequence.toNat⟩ = correctedFrame f := by
  have hr := f.b2.isLt
  have hst := f.b3.isLt
  have hq := (storedSequence f).isLt
  have h := encodeFrame_of_mem c (r := f.b2.toNat) (st := f.b3.toNat) (q := (storedSequence f).toNat)
    (signedRaw_range f.b0 f.b1) (by omega) (by omega) (by omega)
  rwa [rawWord_signedRaw, ofInt_toNat, ofInt_toNat, ofInt_toNat, packFrame_fields] at h

/-- Settles O17: re-encoding corrects the frame, and an encoded frame is well-formed. -/
theorem reencodingCorrectsTheFrame : Obligations.ReencodingCorrectsTheFrame := by
  intro c f
  have hg := encodeFrame_decodeFrame c f
  exact ⟨hg, fun h => h ▸ encodeFrame_wellFormed c _,
    fun h => hg.trans (correctedFrame_of_wellFormed h)⟩

end Sys2Proof.Machine
end

section
/-!
SUPPORT. The statements of 41_sequencer.md: the tick function by sub-interval (O25, O26), a ramp's rate
(O23) and angle (O24), TICK's effect on the state (O20, O21), and sixteen TICKs in a row (O27).
-/

namespace Sys2Proof.Machine

/-! ### The tick function by sub-interval (R97 to R104) -/

theorem targetOf_eq (c : Cfg) (st : SeqState) :
    targetOf c st = if st.phase = .steeringLeft then c.left.toInt else c.right.toInt := by
  cases h : st.phase <;> simp [targetOf, h]

theorem anchorOf_eq (c : Cfg) (st : SeqState) :
    anchorOf c st = if st.phase = .steeringLeft then
        (if st.initial then c.straight.toInt else c.right.toInt) else c.left.toInt := by
  cases h : st.phase <;> simp [anchorOf, h]

theorem otherPhase_eq (p : Phase) :
    otherPhase p = if p = .steeringLeft then .steeringRight else .steeringLeft := by cases p <;> rfl

theorem otherPhase_ne (p : Phase) : otherPhase p ≠ p := by cases p <;> nofun

/-- A timer that went backwards counts as no time elapsed (R97). -/
theorem elapsed_of_backward {entry now : Timestamp} (h : now.toNat < entry.toNat) :
    elapsed entry now = 0 := Nat.sub_eq_zero_of_le h.le

theorem tickSample_angle_hold (st : SeqState) {c : Cfg} {e : Nat} (h : c.tTrans.toNat ≤ e) :
    (tickSample c st e).angle = (targetOf c st : ℚ) / 10 := by
  rw [tickSample, if_neg h.not_gt]

theorem tickSample_rate_hold (st : SeqState) {c : Cfg} {e : Nat} (h : c.tTrans.toNat ≤ e) :
    (tickSample c st e).rate = 0 := by
  rw [tickSample, if_neg h.not_gt]

/-- The advance, its boundary inclusive (R103). -/
theorem tickState_of_advance (st : SeqState) (now : Timestamp) {c : Cfg} {e : Nat}
    (h : c.tTrans.toNat + c.tHold.toNat ≤ e) :
    tickState c st e now = ⟨otherPhase st.phase, some now, seqNext st.seq, false⟩ :=
  if_pos (decide_eq_true h)

/-- An advance writes all three registers of the phase (R103, R108). -/
theorem tickState_changes_phase (st : SeqState) (now : Timestamp) {c : Cfg} {e : Nat}
    (h : c.tTrans.toNat + c.tHold.toNat ≤ e) :
    (tickState c st e now).phase ≠ st.phase ∧ (tickState c st e now).entryTime = some now ∧
      (tickState c st e now).initial = false := by
  rw [tickState_of_advance st now h]
  exact ⟨otherPhase_ne st.phase, rfl, rfl⟩

/-- Before the advance a tick moves the sequence counter alone (R103, R104). -/
theorem tickState_of_stay (st : SeqState) (now : Timestamp) {c : Cfg} {e : Nat}
    (h : e < c.tTrans.toNat + c.tHold.toNat) :
    tickState c st e now = { st with seq := seqNext st.seq } :=
  if_neg (by simpa [advances] using h)

/-- Every tick counts SEQ up, whatever the phase does (R104). -/
theorem tickF_seq (c : Cfg) (st : SeqState) (entry now : Timestamp) :
    (tickF c st entry now).2.seq = st.seq + 1 := by
  simp only [tickF, tickState]
  split <;> rfl

/-! ### A ramp's rate and angle (R100, R101, R110, R111) -/

/-- R101's formula. -/
theorem rampRate_eq_abs (a g : ℤ) (hz t : Nat) :
    rampRate a g hz t = |(g : ℚ) - a| * hz / (40 * t) := by
  rw [rampRate, Nat.cast_natAbs, Int.cast_abs, Int.cast_sub]

theorem rampRate_pos {a g : ℤ} {hz t : Nat} (hne : g ≠ a) (hhz : 0 < hz) (ht : 0 < t) :
    0 < rampRate a g hz t := by
  have hdist : (0 : ℚ) < |(g : ℚ) - a| := abs_pos.mpr (sub_ne_zero.mpr (Int.cast_injective.ne hne))
  rw [rampRate_eq_abs]
  positivity

/-- A ramp's angle is the point at `e / T` on the segment from the anchor to the target (R100). -/
theorem rampAngle_eq_lineMap (a g : ℤ) (e t : Nat) :
    rampAngle a g e t = AffineMap.lineMap ((a : ℚ) / 10) ((g : ℚ) / 10) ((e : ℚ) / t) := by
  rw [rampAngle, AffineMap.lineMap_apply_module']
  push_cast
  simp only [smul_eq_mul]
  ring

theorem rampAngle_zero (a g : ℤ) (t : Nat) : rampAngle a g 0 t = (a : ℚ) / 10 := by
  simp [rampAngle]

/-- A ramp from the target to itself stands still. -/
theorem rampAngle_self (a : ℤ) (e t : Nat) : rampAngle a a e t = (a : ℚ) / 10 := by
  simp [rampAngle]

theorem rampAngle_mem_uIcc (a g : ℤ) {e t : Nat} (h : e ≤ t) :
    rampAngle a g e t ∈ Set.uIcc ((a : ℚ) / 10) ((g : ℚ) / 10) := by
  have hle : (e : ℚ) / t ≤ 1 := div_le_one_of_le₀ (by exact_mod_cast h) (by positivity)
  rw [rampAngle_eq_lineMap, ← segment_eq_uIcc, segment_eq_image_lineMap]
  exact Set.mem_image_of_mem _ ⟨by positivity, hle⟩

/-- Within the ramp `e / T` is not 1, so the target is not reached. -/
theorem rampAngle_ne_target {a g : ℤ} {e t : Nat} (hne : a ≠ g) (h : e < t) :
    rampAngle a g e t ≠ (g : ℚ) / 10 := by
  have ht : (t : ℚ) ≠ 0 := by exact_mod_cast (Nat.ne_zero_of_lt h)
  rw [rampAngle_eq_lineMap, Ne, AffineMap.lineMap_eq_right_iff, div_eq_one_iff_eq ht,
    div_left_inj' (by norm_num)]
  exact_mod_cast not_or.mpr ⟨hne, h.ne⟩

/-- A rate above 255 is clamped to the byte 0xFF (R77, R80). -/
theorem encodeFrame_rate_saturates (c : Cfg) {smp : SignalSample} (h : 255 < smp.rate) :
    (encodeFrame c smp).b2 = 0xFF := by
  have hclamp : clampRate smp.rate = (255 : ℤ) := by
    rw [clampRate, clampRat, if_neg (by linarith), if_pos h, Int.cast_ofNat]
  have hrate : ((encodeFrame c smp).b2.toNat : ℤ) = 255 := by
    rw [encodeFrame_rate, rateNumber, hclamp, quantRat_intCast]
  exact BitVec.eq_of_toNat_eq (by exact_mod_cast hrate)

/-- Settles O23: the ramp's rate is one formula without `e`, and ENCODE clamps it. -/
theorem rampRateIsConstantPositiveAndSaturates :
    Obligations.RampRateIsConstantPositiveAndSaturates := by
  intro c st e e' hhz he he'
  have hrate := tickSample_rate_ramp st he
  refine ⟨hrate.trans (tickSample_rate_ramp st he').symm, fun heq => ⟨?_, ?_⟩, fun hne => ?_,
    fun hbig => encodeFrame_rate_saturates c ?_⟩
  · rw [hrate, rampRate_eq_abs, heq, sub_self, abs_zero, zero_mul, zero_div]
  · rw [tickSample_angle_ramp st he, heq, rampAngle_self]
  · rw [hrate]
    exact rampRate_pos hne (of_decide_eq_true hhz) (Nat.zero_lt_of_lt he)
  · rwa [hrate, rampRate_eq_abs]

/-- Settles O24: a ramp's angle is a point of the segment from anchor to target, short of its end. -/
theorem rampAngleLiesBetweenAnchorAndTarget : Obligations.RampAngleLiesBetweenAnchorAndTarget := by
  refine fun c st e => ⟨fun he => ?_, tickSample_angle_hold st⟩
  rw [tickSample_angle_ramp st he]
  obtain ⟨hmin, hmax⟩ := rampAngle_mem_uIcc (anchorOf c st) (targetOf c st) he.le
  refine ⟨hmin, hmax, ?_, fun hne => rampAngle_ne_target hne he⟩
  rintro rfl
  exact rampAngle_zero _ _ _

/-! ### Ticks at the edges of the phase (R106, R113) -/

/-- Settles O25: with `T = 0` every elapsed time is in the hold, and with `H = 0` too past the phase. -/
theorem zeroTransitionJumpsToTheTarget : Obligations.ZeroTransitionJumpsToTheTarget := by
  intro c st t0 now hT
  have hT' : c.tTrans.toNat = 0 := by rw [hT]; rfl
  have hhold : c.tTrans.toNat ≤ elapsed t0 now := hT' ▸ Nat.zero_le _
  refine ⟨tickSample_angle_hold st hhold, tickSample_rate_hold st hhold, fun hH => ?_⟩
  have hH' : c.tHold.toNat = 0 := by rw [hH]; rfl
  exact tickState_changes_phase st now (by omega)

/-- Settles O26: a backward timer gives the elapsed time 0. -/
theorem backwardTimerTicksAtThePhaseStart : Obligations.BackwardTimerTicksAtThePhaseStart := by
  intro c st t0 now hback hentry
  simp only [tickF, elapsed_of_backward hback]
  refine ⟨fun hT => ⟨?_, ?_⟩, fun hT => ?_, fun hTH => ?_, fun hTH => ?_⟩
  · rw [tickSample_angle_ramp st hT, rampAngle_zero]
  · rw [tickSample_rate_ramp st hT, rampRate_eq_abs]
  · exact ⟨tickSample_angle_hold st hT.le, tickSample_rate_hold st hT.le⟩
  · exact tickState_changes_phase st now hTH.le
  · rw [tickState_of_stay st now (Nat.pos_of_ne_zero hTH)]
    exact ⟨rfl, hentry, rfl⟩

/-! ### TICK (R95, R96) -/

/-- TICK outside MANUAL is rejected and changes nothing (R95). -/
theorem exec_tick_of_ne {s : State} (h : s.regs.ctrl ≠ .manual) :
    exec .tick s = .next { s with outcome := .response (.error .rejectedState) } :=
  congrArg Host.Outcome.next (if_neg h)

/-- TICK in MANUAL answers and commits what `tickNow` gives (R95). -/
theorem exec_tick_of_manual {s : State} (h : s.regs.ctrl = .manual) :
    exec .tick s =
      .next (respond (.sample (tickNow s).1) (s.setRegs (commitTick (tickNow s).2 s.regs))) :=
  congrArg Host.Outcome.next (if_pos h)

theorem tickNow_of_entryTime {s : State} {t0 : Timestamp} (h : s.regs.entryTime = some t0) :
    tickNow s = tickF s.cfg s.regs.toSeqState t0 s.now := by
  rw [tickNow, entryTimeRead_some s t0 h]

/-- Settles O21: TICK's two cases, with ENTRY_TIME read from the register. -/
theorem tickCommitsTickFInManualAlone : Obligations.TickCommitsTickFInManualAlone := by
  refine ⟨rfl, fun s => ⟨exec_tick_of_ne, fun t0 hc ht => ?_⟩⟩
  rw [exec_tick_of_manual hc, tickNow_of_entryTime ht]
  rfl

theorem seqOut_toNat (c : Cfg) (q : BitVec 4) :
    ((seqOut c q).toNat : ℤ) =
      if c.seqEmit = .pre then (q.toNat : ℤ) else ((q.toNat + 1) % 16 : ℕ) := by
  unfold seqOut
  cases c.seqEmit <;> rfl

theorem seqNext_eq (q : BitVec 4) : seqNext q = BitVec.ofNat 4 ((q.toNat + 1) % 16) := by
  apply BitVec.eq_of_toNat_eq
  simp [seqNext]

/-- The sample of a tick in R96's one formula, at the elapsed time as an integer. -/
theorem tickSample_eq (c : Cfg) (st : SeqState) {n : Nat} {e : ℤ} (he : (n : ℤ) = e) :
    tickSample c st n =
      { angle := if e < (c.tTrans.toNat : ℤ) then
          ((anchorOf c st : ℚ) + ((targetOf c st : ℚ) - anchorOf c st) * e / (c.tTrans.toNat : ℤ)) / 10
          else (targetOf c st : ℚ) / 10
        rate := if e < (c.tTrans.toNat : ℤ) then
          |(targetOf c st : ℚ) - anchorOf c st| * c.timerHz / (40 * (c.tTrans.toNat : ℤ)) else 0
        status := 0
        sequence := (seqOut c st.seq).toNat } := by
  subst he
  simp only [tickSample, rampAngle, rampRate_eq_abs, Int.cast_sub, Int.cast_natCast, Nat.cast_lt]
  split_ifs <;> rfl

/-- The next state of a tick in R96's one formula, at the elapsed time as an integer. -/
theorem tickState_eq (c : Cfg) (st : SeqState) (now : Timestamp) {n : Nat} {e : ℤ}
    (he : (n : ℤ) = e) :
    tickState c st n now =
      { phase := if (c.tTrans.toNat : ℤ) + c.tHold.toNat ≤ e then otherPhase st.phase else st.phase
        entryTime := if (c.tTrans.toNat : ℤ) + c.tHold.toNat ≤ e then some now else st.entryTime
        seq := seqNext st.seq
        initial := if (c.tTrans.toNat : ℤ) + c.tHold.toNat ≤ e then false else st.initial } := by
  split_ifs with h
  · exact tickState_of_advance st now (by omega)
  · exact tickState_of_stay st now (by omega)

/-- Settles O20: TICK commits `TickF`, and the model's `TickF` is R96's formulas field by field. -/
theorem tickInManualFollowsTickF : Obligations.TickInManualFollowsTickF := by
  intro s t0 hc ht
  have he : (elapsed t0 s.now : ℤ) = max 0 ((s.now.toNat : ℤ) - t0.toNat) := elapsed_eq_max t0 s.now
  rw [exec_tick_of_manual hc, tickNow_of_entryTime ht, tickF, tickSample_eq _ _ he,
    tickState_eq _ _ _ he, targetOf_eq, anchorOf_eq, otherPhase_eq, seqNext_eq, seqOut_toNat, ht]
  rfl

/-! ### Sixteen TICKs (R112) -/

theorem portCommand_tick : portCommand (encode .tick) = some .tick :=
  portCommand_of_decode (decodeOfEncodeIsTheInstruction .tick rfl) rfl

/-- A host turn with TICK in MANUAL counts SEQ up and stays in MANUAL (R95, R104). -/
theorem step_tick_of_manual {s : State} {now : Timestamp} {rest : List Slot}
    (hs : s.schedule = .host now (encode .tick) :: rest) (hc : s.regs.ctrl = .manual) :
    ∃ t, step s = .next t ∧ t.regs.seq = s.regs.seq + 1 ∧ t.regs.ctrl = .manual ∧
      t.schedule = rest :=
  ⟨_, (step_of_accepted hs portCommand_tick).trans (exec_tick_of_manual hc),
    tickF_seq _ _ _ _, hc, rfl⟩

/-- A run of TICKs in MANUAL counts SEQ up once for each. -/
theorem runs_ticks (times : List Timestamp) {s : State} {rest : List Slot}
    (hc : s.regs.ctrl = .manual)
    (hs : s.schedule = times.map (fun t => Slot.host t (encode .tick)) ++ rest) :
    ∃ t, runs times.length s t ∧ t.regs.seq = s.regs.seq + BitVec.ofNat 4 times.length ∧
      t.regs.ctrl = .manual ∧ t.schedule = rest := by
  induction times generalizing s with
  | nil => exact ⟨s, runs_zero.mpr rfl, (BitVec.add_zero _).symm, hc, hs⟩
  | cons now times ih =>
    obtain ⟨u, hstep, hseq, hcu, hsu⟩ := step_tick_of_manual hs hc
    obtain ⟨t, hrun, hseq', hct, hst⟩ := ih hcu hsu
    refine ⟨t, runs_succ.mpr ⟨u, hstep, hrun⟩, ?_, hct, hst⟩
    rw [hseq', hseq, List.length_cons, BitVec.ofNat_add, BitVec.add_assoc, BitVec.add_comm 1]
    rfl

/-- Settles O27: sixteen increments are 0 modulo 16. -/
theorem sixteenTicksReturnTheSequence : Obligations.SixteenTicksReturnTheSequence := by
  intro s times rest hlen hc hs
  obtain ⟨t, hrun, hseq, hct, hst⟩ := runs_ticks times hc hs
  rw [hlen] at hrun hseq
  exact ⟨t, hrun, hseq.trans (BitVec.add_zero _), hct, hst⟩

end Sys2Proof.Machine
end

section
/-!
SUPPORT. The statements of 42_transmit.md: the host commands of the controller (O28 to O30), its internal
steps by case (O32 to O40), whose turn runs which (O43), the transition table (O48) and the ceiling (O58),
and what a run keeps: in DONE (O55), under busy retry (O56) and of its sequence (O60).
-/

namespace Sys2Proof.Machine

/-! ### The host commands START, CANCEL and READ (R116, R118 to R120) -/

theorem inRun_iff (c : Ctrl) :
    inRun c = true ↔ c = .ready ∨ c = .sending ∨ c = .backoff ∨ c = .pacing := by
  cases c <;> simp [inRun]

theorem not_inRun_iff (c : Ctrl) : inRun c = false ↔ c = .idle ∨ c = .manual ∨ c = .done := by
  cases c <;> simp [inRun]

/-- START outside a run opens a session (R116). -/
theorem exec_start_of_not_inRun {s : State} (run : Bool) (h : inRun s.regs.ctrl = false) :
    exec (.start run) s = .next (respond .none (s.setRegs (startSession run s.now s.regs))) :=
  congrArg Host.Outcome.next (if_neg (by simp [h]))

/-- START during a run is rejected (R118). -/
theorem exec_start_of_inRun {s : State} (run : Bool) (h : inRun s.regs.ctrl = true) :
    exec (.start run) s = .next (raise .rejectedState s) :=
  congrArg Host.Outcome.next (if_pos h)

/-- Settles O28: the two cases of START, its session written out register by register. -/
theorem startCreatesAFreshSession : Obligations.StartCreatesAFreshSession := by
  refine fun s run => ⟨by cases run <;> rfl, fun hc => ?_, fun hc => ?_⟩
  · exact exec_start_of_not_inRun run ((not_inRun_iff _).mpr hc)
  · exact exec_start_of_inRun run ((inRun_iff _).mpr hc)

theorem exec_cancel (s : State) : exec .cancel s =
    .next { s with outcome := .response (.ok .none), regs := { s.regs with cancel := true } } := rfl

/-- Settles O30: CANCEL has one case. -/
theorem cancelSetsTheFlagInEveryState : Obligations.CancelSetsTheFlagInEveryState :=
  fun s => ⟨rfl, exec_cancel s⟩

/-- The register numbers of R36 whose register holds a value (R120). -/
def HoldsValue (r : Regs) (reg : Nat) : Prop :=
  reg ≤ 11 ∧ (reg = 4 → r.entryTime ≠ none) ∧ (reg = 5 → r.sessionStart ≠ none) ∧
    (reg = 7 → r.deadline ≠ none) ∧ (reg = 8 → r.frameBuf ≠ none) ∧ (reg = 10 → r.termCode ≠ none)

theorem valueOrUnwritten_of_ne_none {v : Option Nat} (h : v ≠ none) :
    ∃ n, valueOrUnwritten v = .ok n := by
  obtain ⟨n, rfl⟩ := Option.ne_none_iff_exists'.mp h
  exact ⟨n, rfl⟩

theorem valueOrUnwritten_error {v : Option Nat} {e : CommandError} (h : valueOrUnwritten v = .error e) :
    e = .unwritten := by
  cases v with
  | none => cases h; rfl
  | some n => cases h

/-- A register that holds a value is read (R36, R120). -/
theorem readRegister_of_holdsValue {r : Regs} :
    ∀ {reg : Nat}, HoldsValue r reg → ∃ v, readRegister r reg = .ok v
  | 0, _ | 1, _ | 2, _ | 3, _ | 6, _ | 9, _ | 11, _ => ⟨_, rfl⟩
  | 4, ⟨_, h, _⟩ | 5, ⟨_, _, h, _⟩ | 7, ⟨_, _, _, h, _⟩ | 8, ⟨_, _, _, _, h, _⟩ =>
    valueOrUnwritten_of_ne_none (by simpa using h)
  | 10, ⟨_, _, _, _, _, h⟩ => valueOrUnwritten_of_ne_none (h rfl)
  | _ + 12, ⟨h, _⟩ => absurd h (by omega)

/-- READ's own errors are the only ones it answers (R120). -/
theorem readRegister_error {r : Regs} {e : CommandError} :
    ∀ {reg : Nat}, readRegister r reg = .error e → e = .illegalRegister ∨ e = .unwritten
  | 4, h | 5, h | 7, h | 8, h | 10, h => .inr (valueOrUnwritten_error h)
  | reg + 12, h => by
    rw [readRegister_reserved r (reg + 12) (by omega)] at h
    cases h
    exact .inl rfl

/-- Settles O29: START and TICK meet their guards, and the other four commands have none. -/
theorem onlyFourCommandsSucceedDuringARun : Obligations.OnlyFourCommandsSucceedDuringARun := by
  intro s hrun
  have hmanual : s.regs.ctrl ≠ .manual := by rcases hrun with hc | hc | hc | hc <;> simp [hc]
  refine ⟨exec_tick_of_ne hmanual, fun run => exec_start_of_inRun run ((inRun_iff _).mpr hrun),
    fun smp => ⟨_, exec_encode smp s⟩, fun f => ⟨_, exec_decode f s⟩, fun reg hreg => ?_,
    fun reg => ?_, exec_cancel s⟩
  · obtain ⟨v, hv⟩ := readRegister_of_holdsValue hreg
    exact ⟨_, exec_read_of_ok hv⟩
  · cases hread : readRegister s.regs reg with
    | ok v => exact ⟨_, exec_read_of_ok hread, by simp, by simp⟩
    | error e =>
      refine ⟨_, exec_read_of_error hread, ?_⟩
      rcases readRegister_error hread with rfl | rfl <;> simp

/-! ### ITERATE (R121 to R124) -/

/-- ITERATE in READY takes place (R121). -/
theorem exec_iterate_of_ready {s : State} (h : s.regs.ctrl = .ready) :
    exec .iterate s = .next (moved (s.setRegs (iterateRegs s))) :=
  congrArg Host.Outcome.next (if_pos h)

theorem iterateRegs_of_cancel {s : State} (h : s.regs.cancel = true) :
    iterateRegs s = endRun .cancelled s.regs := if_pos h

theorem iterateRegs_of_ceiling {s : State} (h : s.regs.cancel = false)
    (hm : ceilingReached s.cfg s.regs.sentCount = true) :
    iterateRegs s = endRun .countReached s.regs := by
  rw [iterateRegs, if_neg (by simp [h]), if_pos hm]

theorem iterateRegs_of_below {s : State} (h : s.regs.cancel = false)
    (hm : ∀ m, s.cfg.maxFrames = some m → s.regs.sentCount.toNat < m.toNat) :
    iterateRegs s = latchFrame (frameWord (encodeFrame s.cfg (tickNow s).1))
      (commitTick (tickNow s).2 s.regs) := by
  have hbelow : ¬ ceilingReached s.cfg s.regs.sentCount = true := by
    rw [ceilingReached_iff]
    rintro ⟨m, hmax, hle⟩
    exact (hm m hmax).not_ge hle
  rw [iterateRegs, if_neg (by simp [h]), if_neg hbelow]

/-- Settles O32: cancellation is looked at first. -/
theorem iterateEndsACancelledRun : Obligations.IterateEndsACancelledRun := by
  intro s hc hcancel
  rw [exec_iterate_of_ready hc, iterateRegs_of_cancel hcancel]
  rfl

/-- Settles O33: the ceiling is looked at second, and `NONE` is never reached. -/
theorem iterateEndsARunAtItsCeiling : Obligations.IterateEndsARunAtItsCeiling := by
  refine fun s hc hcancel => ⟨fun m hmax hle => ?_, fun hmax => ⟨_, exec_iterate_of_ready hc, ?_⟩⟩
  · rw [exec_iterate_of_ready hc,
      iterateRegs_of_ceiling hcancel ((ceilingReached_iff _ _).mpr ⟨m, hmax, hle⟩)]
    rfl
  · have hregs := iterateRegs_of_below hcancel (by simp [hmax])
    simp [hregs]

/-- Settles O34: with ENTRY_TIME written, ITERATE's tick is `tickF` at it. -/
theorem iterateTicksEncodesAndLatches : Obligations.IterateTicksEncodesAndLatches := by
  intro s t0 hc hcancel hmax ht
  rw [exec_iterate_of_ready hc, iterateRegs_of_below hcancel hmax, tickNow_of_entryTime ht]
  rfl

/-- Settles O35: TICK and ITERATE commit the same `tickNow`, which does not read CTRL. -/
theorem iterateIsTickThenEncode : Obligations.IterateIsTickThenEncode := by
  intro s hc hcancel hmax
  refine ⟨_, _, _, (tickNow s).1, encodeFrame s.cfg (tickNow s).1, exec_iterate_of_ready hc,
    exec_tick_of_manual rfl, rfl, exec_encode _ _, rfl, ?_⟩
  rw [iterateRegs_of_below hcancel hmax]
  rfl

/-! ### SEND (R125 to R128) -/

/-- SEND in SENDING takes place, with one event (R125). -/
theorem exec_send_of_sending {s : State} (h : s.regs.ctrl = .sending) :
    exec .send s = .next (moved ((s.addEvent (sendEvent s)).setRegs (sendRegs s))) :=
  congrArg Host.Outcome.next (if_pos h)

/-- The event of a SEND with a latched frame (R125, R135). -/
theorem sendEvent_of_frameBuf {s : State} {w : FrameWord} (h : s.regs.frameBuf = some w) :
    sendEvent s = ⟨s.now, s.cfg.canId, frameOfWord w, s.cfg.extended, false, sendAnswer s⟩ := by
  rw [sendEvent, frameBufRead_some s w h]

theorem sendRegs_of_ok {s : State} (h : sendAnswer s = .ok) : sendRegs s = sentRegs s := by
  simp [sendRegs, h]

theorem sendRegs_of_busy {s : State} (h : sendAnswer s = .busy) :
    sendRegs s = enterWait .backoff (deadlineAfter s s.cfg.backoff) s.regs := by
  simp [sendRegs, h]

theorem sendRegs_of_fatal {s : State} {e : ErrorCode} (h : sendAnswer s = .fatal e) :
    sendRegs s = fatalAbort e s.regs := by
  simp [sendRegs, h]

theorem sentCountAfter_eq_ofNat {s : State} (h : s.regs.sentCount.toNat + 1 < 2 ^ 64) :
    sentCountAfter s = BitVec.ofNat 64 (s.regs.sentCount.toNat + 1) := by
  rw [sentCountAfter, if_pos h, BitVec.ofNat_add, BitVec.ofNat_toNat, BitVec.setWidth_eq]
  rfl

/-- Settles O36: one frame more, and a wait exactly where PACING is not zero. -/
theorem sendAnsweredOkCountsTheFrame : Obligations.SendAnsweredOkCountsTheFrame := by
  intro s w hc hw hok hcount hdead
  have ha : sendAnswer s = .ok := (classify_ok s.cfg s.sendResult).mpr hok
  rw [exec_send_of_sending hc, sendEvent_of_frameBuf hw, sendRegs_of_ok ha, ha, sentRegs,
    sentCountAfter_eq_ofNat hcount, deadlineAfter_exact s _ hdead]
  by_cases hp : s.cfg.pacing = 0
  · have hzero : ¬ 0 < s.cfg.pacing.toNat := by simp [hp]
    rw [if_pos hp, if_neg hzero, if_neg hzero]
    rfl
  · have hpos : 0 < s.cfg.pacing.toNat := by bv_omega
    rw [if_neg hp, if_pos hpos, if_pos hpos]
    rfl

/-- Settles O37: the answer BUSY_CODE is busy. -/
theorem sendAnsweredBusyBacksOff : Obligations.SendAnsweredBusyBacksOff := by
  intro s w hc hw hbusy hdead
  have ha : sendAnswer s = .busy := (classify_busy s.cfg s.sendResult).mpr ⟨_, hbusy, rfl⟩
  rw [exec_send_of_sending hc, sendEvent_of_frameBuf hw, sendRegs_of_busy ha, ha,
    deadlineAfter_exact s _ hdead]
  rfl

/-- Settles O38: two codes of `ERR_WIDTH` bits are taken as they are, so they stay different. -/
theorem sendAnsweredFatalAbortsTheRun : Obligations.SendAnsweredFatalAbortsTheRun := by
  intro s w code hc hw herr hcode hbusy hne
  have hcode' : errorCodeOf s.cfg code = code := errorCodeOf_of_fits _ _ (decide_eq_true hcode)
  have hbusy' : errorCodeOf s.cfg s.cfg.busyCode = s.cfg.busyCode :=
    errorCodeOf_of_fits _ _ (decide_eq_true hbusy)
  have ha : sendAnswer s = .fatal code :=
    (classify_fatal s.cfg s.sendResult code).mpr ⟨code, herr, hcode'.symm, hbusy'.symm ▸ hne⟩
  rw [exec_send_of_sending hc, sendEvent_of_frameBuf hw, sendRegs_of_fatal ha, ha]
  rfl

/-- A SEND's registers keep the frame, the sequencer, the session and CANCEL. -/
theorem sendRegs_frame (s : State) :
    (sendRegs s).frameBuf = s.regs.frameBuf ∧ (sendRegs s).toSeqState = s.regs.toSeqState ∧
      (sendRegs s).sessionStart = s.regs.sessionStart ∧ (sendRegs s).cancel = s.regs.cancel := by
  rcases sendRegs_cases s with ⟨-, -, hr⟩ | ⟨-, -, hr⟩ | ⟨-, hr⟩ | ⟨e, -, hr⟩ <;> simp [hr]

/-- The state of CTRL a SEND leads to, by the answer (R126, R127, R128). -/
theorem sendRegs_ctrl (s : State) :
    (sendAnswer s = .ok → (sendRegs s).ctrl = .ready ∨ (sendRegs s).ctrl = .pacing) ∧
    (sendAnswer s = .busy → (sendRegs s).ctrl = .backoff) ∧
    (∀ e, sendAnswer s = .fatal e → (sendRegs s).ctrl = .done) := by
  rcases sendRegs_cases s with ⟨ha, -, hr⟩ | ⟨ha, -, hr⟩ | ⟨ha, hr⟩ | ⟨e, ha, hr⟩ <;> simp [ha, hr]

/-- Settles O39: SEND's event and registers without a condition on the sums. -/
theorem everySendAppendsOneEvent : Obligations.EverySendAppendsOneEvent := by
  intro s w hc hw
  obtain ⟨hframe, hseq, hstart, hcancel⟩ := sendRegs_frame s
  refine ⟨_, sendAnswer s, exec_send_of_sending hc, ?_, classify_ok _ _, fun n hn => ⟨fun hb => ?_,
    fun hb => ?_⟩, hframe.trans hw, hseq, hstart, hcancel, sendRegs_ctrl s⟩
  · simp [sendEvent_of_frameBuf hw]
  · exact (classify_busy _ _).mpr ⟨n, hn, hb⟩
  · exact (classify_fatal _ _ _).mpr ⟨n, hn, rfl, hb⟩

/-! ### WAIT_EXPIRE (R129, R130) -/

/-- WAIT_EXPIRE from its deadline on leads where `waitTarget` says (R129, R130). -/
theorem exec_waitExpire_of_due {s : State} {d : Timestamp} {c : Ctrl} (hd : s.regs.deadline = some d)
    (hdue : d.toNat ≤ s.now.toNat) (hc : waitTarget s.regs.ctrl = some c) :
    exec .waitExpire s = .next (moved (s.setRegs (setCtrl c s.regs))) := by
  simp [exec, execWaitExpire, hc, deadlineRead_some s d hd, hdue]

/-- Settles O40: the two waiting states and where they lead. -/
theorem waitExpireLeavesTheWait : Obligations.WaitExpireLeavesTheWait :=
  fun _ _ hd hdue => ⟨fun hc => exec_waitExpire_of_due (c := .sending) hd hdue (by rw [hc]; rfl),
    fun hc => exec_waitExpire_of_due (c := .ready) hd hdue (by rw [hc]; rfl)⟩

/-! ### The controller's turn (R115) -/

/-- A controller turn runs the step CTRL selects. -/
theorem step_of_selected {s : State} {now : Timestamp} {r : SendResult} {rest : List Slot} {i : Instr}
    (hs : s.schedule = .controller now r :: rest) (hi : controllerStep s.regs.ctrl = some i) :
    step s = exec i (((s.dropTurn rest).setNow now).setSendResult r) := by
  simp [step, hs, takeTurn, controllerTurn, hi]

/-- A controller turn for which CTRL selects no step is stuck. -/
theorem step_of_unselected {s : State} {now : Timestamp} {r : SendResult} {rest : List Slot}
    (hs : s.schedule = .controller now r :: rest) (hi : controllerStep s.regs.ctrl = none) :
    step s = .next (stuck (((s.dropTurn rest).setNow now).setSendResult r)) := by
  simp [step, hs, takeTurn, controllerTurn, hi]

/-- Settles O43: the step CTRL selects, state by state. -/
theorem controllerTurnRunsTheEnabledStep : Obligations.ControllerTurnRunsTheEnabledStep := by
  refine fun s now r rest hs => ⟨fun hc => ?_, fun hc => ?_, fun hc => ?_, fun hc => ?_⟩
  · exact step_of_selected hs (by rw [hc]; rfl)
  · exact step_of_selected hs (by rw [hc]; rfl)
  · exact step_of_selected hs (by rcases hc with hc | hc <;> rw [hc] <;> rfl)
  · exact step_of_unselected hs (by rcases hc with hc | hc | hc <;> rw [hc] <;> rfl)

/-! ### The transition table (R115) -/

/-- The two ends of a run in READY, with the ceiling check as R123 states it (R122, R123). -/
theorem iterate_ends_iff (c : Cfg) (r : Regs) :
    (r.cancel = true ∨ ∃ m, c.maxFrames = some m ∧ m.toNat ≤ r.sentCount.toNat) ↔
      r.cancel = true ∨ ceilingReached c r.sentCount = true := by
  rw [ceilingReached_iff]

/-- A host turn leaves CTRL alone, but for a START outside a run (R115, R116). -/
theorem step_host_ctrl {s t : State} {now : Timestamp} {p : PortWord} {rest : List Slot}
    (hs : s.schedule = .host now p :: rest) (h : step s = .next t) :
    (∀ run, decode p = .ok (.start run) →
      (inRun s.regs.ctrl = false → t.regs.ctrl = if run then .ready else .manual) ∧
      (inRun s.regs.ctrl = true → t.regs.ctrl = s.regs.ctrl)) ∧
    ((∀ run, decode p ≠ .ok (.start run)) → t.regs.ctrl = s.regs.ctrl) := by
  have hdecode {i : Instr} (hp : portCommand p = some i) : decode p = .ok i :=
    ((portCommand_eq_some p i).mp hp).2
  obtain ⟨-, -, -, hw⟩ := step_host hs h
  rcases hw with ⟨hr, -, hstart, -⟩ | ⟨-, -, ⟨hp, -, e, -, hr⟩ | ⟨run, hp, hc, hr⟩ | ⟨hp, hr⟩⟩
  · exact ⟨fun run hd => ⟨fun hc => absurd (hstart run hd) (by simp [hc]), fun _ => by rw [hr]⟩,
      fun _ => by rw [hr]⟩
  · simp [hdecode hp, hr]
  · simp [hdecode hp, hr, hc]
  · simp [hdecode hp, hr]

/-- A controller turn moves CTRL along the rows of R115's table. -/
theorem step_controller_ctrl {s t : State} {now : Timestamp} {r : SendResult} {rest : List Slot}
    (hs : s.schedule = .controller now r :: rest) (h : step s = .next t) :
    (s.regs.ctrl = .ready → t.regs.ctrl =
      if s.regs.cancel = true ∨ ceilingReached s.cfg s.regs.sentCount = true then .done
      else .sending) ∧
    (s.regs.ctrl = .sending →
      (classify s.cfg r = .ok → t.regs.ctrl = if 0 < s.cfg.pacing.toNat then .pacing else .ready) ∧
      (classify s.cfg r = .busy → t.regs.ctrl = .backoff) ∧
      (∀ c, classify s.cfg r = .fatal c → t.regs.ctrl = .done)) ∧
    (∀ d, s.regs.deadline = some d →
      (s.regs.ctrl = .backoff → t.regs.ctrl = if d.toNat ≤ now.toNat then .sending else .backoff) ∧
      (s.regs.ctrl = .pacing → t.regs.ctrl = if d.toNat ≤ now.toNat then .ready else .pacing)) ∧
    (inRun s.regs.ctrl = false → t.regs.ctrl = s.regs.ctrl) := by
  obtain ⟨-, -, hw⟩ := step_controller hs h
  rcases hw with ⟨hr, -, hready, hsending, hwait⟩ | ⟨hc, -, hw⟩ | ⟨hc, -, hw⟩ |
    ⟨-, d, hd, hdue, hw⟩
  · have hearly {d : Timestamp} (hd : s.regs.deadline = some d)
        (hc : s.regs.ctrl = .backoff ∨ s.regs.ctrl = .pacing) : ¬ d.toNat ≤ now.toNat := by
      obtain ⟨d', hd', hlt⟩ := hwait hc
      exact not_le.mpr (hd' d hd ▸ hlt)
    refine ⟨fun hc => absurd hc hready, fun hc => absurd hc hsending, fun d hd => ⟨fun hc => ?_,
      fun hc => ?_⟩, fun _ => by rw [hr]⟩
    · rw [if_neg (hearly hd (.inl hc)), hr, hc]
    · rw [if_neg (hearly hd (.inr hc)), hr, hc]
  · rcases hw with ⟨hcancel, hr⟩ | ⟨hcancel, hm, hr⟩ | ⟨hcancel, hm, e, -, hr⟩
    · simp [hr, hc, hcancel, inRun]
    · simp [hr, hc, hcancel, hm, inRun]
    · simp [hr, hc, hcancel, hm, inRun]
  · rcases hw with ⟨ha, n, -, ⟨hp, hr⟩ | ⟨hp, d, hr⟩⟩ | ⟨ha, d, hr⟩ | ⟨e, ha, hr⟩
    · simp [hr, hc, ha, hp, inRun]
    · have hpos : 0 < s.cfg.pacing.toNat := by bv_omega
      simp [hr, hc, ha, hpos, inRun]
    · simp [hr, hc, ha, inRun]
    · simp [hr, hc, ha, inRun]
  · have hdue' {d' : Timestamp} (hd' : s.regs.deadline = some d') : d'.toNat ≤ now.toNat :=
      hd d' hd' ▸ hdue
    rcases hw with ⟨hc, hr⟩ | ⟨hc, hr⟩ <;> simp +contextual [hr, hc, hdue', inRun]

/-- Settles O48: the table by the agent whose turn it is. -/
theorem controlFollowsTheTransitionTable : Obligations.ControlFollowsTheTransitionTable := by
  intro s t slot rest hs h
  simp only [iterate_ends_iff, ← not_inRun_iff, Bool.not_eq_false]
  cases slot with
  | reset =>
    rw [step_reset hs h]
    exact ⟨fun _ => rfl, nofun, nofun⟩
  | host now p =>
    refine ⟨nofun, ?_, nofun⟩
    rintro now p ⟨⟩
    exact step_host_ctrl hs h
  | controller now r =>
    refine ⟨nofun, nofun, ?_⟩
    rintro now r ⟨⟩
    exact step_controller_ctrl hs h

/-! ### The ceiling (R123, R126) -/

/-- SENT_COUNT is at most `m`, and below it while a frame is latched to be sent. -/
def WithinCeiling (m : BitVec 64) (r : Regs) : Prop :=
  r.sentCount.toNat ≤ m.toNat ∧
    (r.ctrl = .sending ∨ r.ctrl = .backoff → r.sentCount.toNat < m.toNat)

theorem lt_of_not_ceilingReached {c : Cfg} {m n : BitVec 64} (hm : c.maxFrames = some m)
    (h : ceilingReached c n = false) : n.toNat < m.toNat := by
  simpa [ceilingReached, hm] using h

/-- Only SEND answered OK counts, and only ITERATE below the ceiling goes to SENDING. -/
theorem WithinCeiling.step_controller {m : BitVec 64} {s t : State} {now : Timestamp} {r : SendResult}
    {rest : List Slot} (hm : s.cfg.maxFrames = some m) (hinv : WithinCeiling m s.regs)
    (hs : s.schedule = .controller now r :: rest) (h : step s = .next t) : WithinCeiling m t.regs := by
  have ⟨hle, hlt⟩ := hinv
  obtain ⟨-, -, hw⟩ := Machine.step_controller hs h
  rcases hw with ⟨hr, -⟩ | ⟨-, -, hw⟩ | ⟨hc, -, hw⟩ | ⟨-, -, -, -, hw⟩
  · rwa [hr]
  · rcases hw with ⟨-, hr⟩ | ⟨-, -, hr⟩ | ⟨-, hceiling, e, -, hr⟩ <;> rw [hr]
    · exact ⟨hle, nofun⟩
    · exact ⟨hle, nofun⟩
    · exact ⟨hle, fun _ => lt_of_not_ceilingReached hm hceiling⟩
  · have hbelow := hlt (.inl hc)
    rcases hw with ⟨-, n, hn, hr⟩ | ⟨-, d, hr⟩ | ⟨e, -, hr⟩
    · have hcount := hn (by omega)
      rcases hr with ⟨-, hr⟩ | ⟨-, d, hr⟩ <;> rw [hr] <;>
        exact ⟨hcount.trans_le hbelow, nofun⟩
    · rw [hr]
      exact ⟨hle, fun _ => hbelow⟩
    · rw [hr]
      exact ⟨hle, nofun⟩
  · rcases hw with ⟨hc, hr⟩ | ⟨-, hr⟩ <;> rw [hr]
    · exact ⟨hle, fun _ => hlt (.inr hc)⟩
    · exact ⟨hle, nofun⟩

/-- Settles O58, by the agent whose turn it is: START and reset clear SENT_COUNT outside SENDING. -/
theorem sentCountNeverPassesTheCeiling : Obligations.SentCountNeverPassesTheCeiling := by
  intro s t m hm hinv h
  cases hs : s.schedule with
  | nil => rwa [step_nil hs h]
  | cons slot rest =>
    cases slot with
    | reset =>
      rw [step_reset hs h]
      exact ⟨Nat.zero_le _, nofun⟩
    | host now p =>
      obtain ⟨-, -, -, hw⟩ := step_host hs h
      rcases hw with ⟨hr, -⟩ | ⟨-, -, ⟨-, -, e, -, hr⟩ | ⟨run, -, -, hr⟩ | ⟨-, hr⟩⟩ <;> rw [hr]
      · exact hinv
      · exact hinv
      · exact ⟨Nat.zero_le _, by cases run <;> nofun⟩
      · exact hinv
    | controller now r => exact WithinCeiling.step_controller hm hinv hs h

/-! ### Runs under a condition on the turns -/

/-- What every step keeps whose pending turns all meet a condition holds at the end of a run. -/
theorem runs_invariant {ok : Slot → Bool} {P : State → Prop}
    (hstep : ∀ s t, (∀ slot ∈ s.schedule, ok slot = true) → P s → step s = .next t → P t)
    {n : Nat} {s t : State} (hok : ∀ slot ∈ s.schedule, ok slot = true) (hs : P s)
    (hrun : runs n s t) : P t :=
  (runs_induction (P := fun _ u => (∀ slot ∈ u.schedule, ok slot = true) ∧ P u)
    (fun _ u v ⟨hu, hp⟩ h => ⟨fun slot hm => hu slot (step_schedule_subset h hm), hstep u v hu hp h⟩)
    n 0 s t ⟨hok, hs⟩ hrun).2

theorem notReset_of_keepsSession {slot : Slot} (h : slot.keepsSession = true) :
    slot.notReset = true := by
  cases slot with
  | host | controller => rfl
  | reset => cases h

/-- Outside MANUAL, where neither a reset nor an accepted START is pending, a turn that is not the
controller's writes at most CANCEL (R95, R116, R119). -/
theorem step_keeps_or_controller {s t : State} (hmanual : s.regs.ctrl ≠ .manual)
    (hreset : ∀ slot ∈ s.schedule, slot.notReset = true)
    (hstart : inRun s.regs.ctrl = true ∨ ∀ slot ∈ s.schedule, slot.keepsSession = true)
    (h : step s = .next t) :
    (t.history = s.history ∧ (t.regs = s.regs ∨ t.regs = setCancel s.regs)) ∨
      ∃ now r rest, s.schedule = .controller now r :: rest := by
  cases hs : s.schedule with
  | nil => rw [step_nil hs h]; exact .inl ⟨rfl, .inl rfl⟩
  | cons slot rest =>
    cases slot with
    | reset => exact absurd (hreset .reset (by simp [hs])) (by decide)
    | host now p =>
      obtain ⟨-, -, hh, hw⟩ := step_host hs h
      rcases hw with ⟨hr, -⟩ | ⟨-, -, ⟨-, hc, -⟩ | ⟨run, hp, hc, -⟩ | ⟨-, hr⟩⟩
      · exact .inl ⟨hh, .inl hr⟩
      · exact absurd hc hmanual
      · have hkeep := hstart.resolve_left (by simp [hc]) (.host now p) (by simp [hs])
        exact absurd hp (portCommand_ne_start_of_keepsSession hkeep run)
      · exact .inl ⟨hh, .inr hr⟩
    | controller now r => exact .inr ⟨now, r, rest, rfl⟩

/-! ### DONE (R134, R150) -/

/-- The run that ended in `s` is still as it ended: nothing but CANCEL has changed. -/
def EndedAs (s u : State) : Prop :=
  u.regs = { s.regs with cancel := u.regs.cancel } ∧ u.history = s.history

/-- In DONE no turn but the host's writes anything, and the host's can write CANCEL. -/
theorem step_of_done {s t : State} (hc : s.regs.ctrl = .done)
    (hkeep : ∀ slot ∈ s.schedule, slot.keepsSession = true) (h : step s = .next t) : EndedAs s t := by
  rcases step_keeps_or_controller (by simp [hc])
    (fun slot hm => notReset_of_keepsSession (hkeep slot hm)) (.inr hkeep) h with
    ⟨hh, hr | hr⟩ | ⟨now, r, rest, hs⟩
  · exact ⟨by rw [hr], hh⟩
  · exact ⟨by rw [hr]; rfl, hh⟩
  · rw [step_of_unselected hs (by rw [hc]; rfl)] at h
    cases h
    exact ⟨rfl, rfl⟩

/-- Settles O55, by induction over the run. -/
theorem doneIsLeftOnlyByStartOrReset : Obligations.DoneIsLeftOnlyByStartOrReset := by
  intro n s t hc hkeep hrun
  refine runs_invariant (P := EndedAs s) (fun u v hu ⟨hregs, hhist⟩ h => ?_) hkeep ⟨rfl, rfl⟩ hrun
  have hcu : u.regs.ctrl = .done := by rw [hregs]; exact hc
  obtain ⟨hregs', hhist'⟩ := step_of_done hcu hu h
  exact ⟨by rw [hregs', hregs], hhist'.trans hhist⟩

/-! ### Busy retry (R131, R132) -/

/-- The registers `r` of a frame under retry since the registers were `r₀`. -/
def RetryingSince (r₀ r : Regs) : Prop :=
  (r.ctrl = .sending ∨ r.ctrl = .backoff) ∧
    r = { r₀ with ctrl := r.ctrl, deadline := r.deadline, cancel := r.cancel }

theorem RetryingSince.trans {r₀ r r' : Regs} (h : RetryingSince r₀ r) (h' : RetryingSince r r') :
    RetryingSince r₀ r' := by
  obtain ⟨-, hr⟩ := h
  obtain ⟨hc', hr'⟩ := h'
  exact ⟨hc', by rw [hr', hr]⟩

/-- From `s` to `u` only events were added, and if all of them were answered BUSY then `w` is still
under retry and each of them carried it. -/
def BusyRetry (w : FrameWord) (s u : State) : Prop :=
  ∃ es, u.history = s.history ++ es ∧ ((∀ e ∈ es, e.answer = .busy) →
    RetryingSince s.regs u.regs ∧ ∀ e ∈ es, e.data = frameOfWord w)

theorem BusyRetry.of_unchanged {w : FrameWord} {s u : State} (hh : u.history = s.history)
    (hr : RetryingSince s.regs u.regs) : BusyRetry w s u :=
  ⟨[], by simp [hh], fun _ => ⟨hr, by simp⟩⟩

/-- One step of a retry (R127, R129): a SEND answered otherwise than BUSY ends it. -/
theorem step_busyRetry {w : FrameWord} {s t : State} (hframe : s.regs.frameBuf = some w)
    (hc : s.regs.ctrl = .sending ∨ s.regs.ctrl = .backoff)
    (hreset : ∀ slot ∈ s.schedule, slot.notReset = true) (h : step s = .next t) :
    BusyRetry w s t := by
  have hrun : inRun s.regs.ctrl = true := by rcases hc with hc | hc <;> rw [hc] <;> rfl
  have hmanual : s.regs.ctrl ≠ .manual := by rcases hc with hc | hc <;> simp [hc]
  rcases step_keeps_or_controller hmanual hreset (.inl hrun) h with
    ⟨hh, hr | hr⟩ | ⟨now, r, rest, hs⟩
  · exact .of_unchanged hh (by rw [hr]; exact ⟨hc, rfl⟩)
  · exact .of_unchanged hh (by rw [hr]; exact ⟨hc, rfl⟩)
  · obtain ⟨-, -, hw⟩ := step_controller hs h
    rcases hw with ⟨hr, hh, -⟩ | ⟨hready, -⟩ | ⟨-, ⟨w', hw', hh⟩, hw⟩ | ⟨hh, d, -, -, hw⟩
    · exact .of_unchanged hh (by rw [hr]; exact ⟨hc, rfl⟩)
    · simp [hready] at hc
    · refine ⟨_, hh, fun hbusy => ?_⟩
      have ha : classify s.cfg r = .busy := hbusy _ List.mem_cons_self
      rcases hw with ⟨hok, -⟩ | ⟨-, d, hr⟩ | ⟨e, hfatal, -⟩
      · simp [ha] at hok
      · rw [hr]
        exact ⟨⟨.inr rfl, rfl⟩, List.forall_mem_singleton.mpr (by rw [hw' w hframe])⟩
      · simp [ha] at hfatal
    · rcases hw with ⟨-, hr⟩ | ⟨hpacing, -⟩
      · exact .of_unchanged hh (by rw [hr]; exact ⟨.inl rfl, rfl⟩)
      · simp [hpacing] at hc

/-- A step only adds to the history (R135). -/
theorem step_history_append {s t : State} (h : step s = .next t) :
    ∃ es, t.history = s.history ++ es := by
  rcases step_history_cases h with hh | ⟨-, e, -, -, hh, -⟩
  · exact ⟨[], by simp [hh]⟩
  · exact ⟨[e], hh⟩

/-- A retry is carried on by each step, and what it says ends with the first answer that is not BUSY. -/
theorem BusyRetry.step {w : FrameWord} {s u v : State} (hframe : s.regs.frameBuf = some w)
    (hinv : BusyRetry w s u) (hreset : ∀ slot ∈ u.schedule, slot.notReset = true)
    (h : step u = .next v) : BusyRetry w s v := by
  obtain ⟨es, hhist, hretry⟩ := hinv
  by_cases hbusy : ∀ e ∈ es, e.answer = .busy
  · obtain ⟨⟨hc, hregs⟩, hdata⟩ := hretry hbusy
    have hframe' : u.regs.frameBuf = some w := by rw [hregs]; exact hframe
    obtain ⟨es', hhist', hretry'⟩ := step_busyRetry hframe' hc hreset h
    refine ⟨es ++ es', by rw [hhist', hhist, List.append_assoc], fun hall => ?_⟩
    obtain ⟨hr, hdata'⟩ := hretry' (List.forall_mem_append.mp hall).2
    exact ⟨.trans ⟨hc, hregs⟩ hr, List.forall_mem_append.mpr ⟨hdata, hdata'⟩⟩
  · obtain ⟨es', hhist'⟩ := step_history_append h
    exact ⟨es ++ es', by rw [hhist', hhist, List.append_assoc],
      fun hall => absurd (List.forall_mem_append.mp hall).1 hbusy⟩

/-- Settles O56, by induction over the run. -/
theorem busyRetryResendsTheIdenticalFrame : Obligations.BusyRetryResendsTheIdenticalFrame := by
  intro n s t w hframe hc hreset hrun hbusy
  obtain ⟨es, hhist, hretry⟩ : BusyRetry w s t :=
    runs_invariant (fun _ _ hu hinv h => hinv.step hframe hu h) hreset
      (.of_unchanged rfl ⟨hc, rfl⟩) hrun
  rw [hhist, List.drop_left] at hbusy ⊢
  obtain ⟨⟨hct, hregs⟩, hdata⟩ := hretry hbusy
  exact ⟨hct, hregs, hdata⟩

/-! ### The sequence nibbles of a run (R104, R133) -/

/-- The sequence nibble of a frame is the value the tick emits (R84, R104). -/
theorem storedSequence_tick (c : Cfg) (st : SeqState) (entry now : Timestamp) :
    storedSequence (encodeFrame c (tickF c st entry now).1) = seqOut c st.seq := by
  have hseq : (tickF c st entry now).1.sequence = (seqOut c st.seq).toNat := by
    simp only [tickF, tickSample]
    split <;> rfl
  have hclamp : clampSequence (seqOut c st.seq).toNat = (seqOut c st.seq).toNat :=
    clampInt_of_mem (by omega) (by omega)
  rw [encodeFrame, packFrame_storedSequence, hseq, hclamp, ofInt_toNat]

/-- The next frame to be answered OK belongs to the counter value `q`: SEQ holds it before ITERATE, and
from ITERATE on FRAME_BUF does. That CTRL is not MANUAL keeps a host TICK from counting (R95). -/
def NextSequence (c : Cfg) (q : Nibble) (r : Regs) : Prop :=
  r.ctrl ≠ .manual ∧ (r.ctrl = .ready ∨ r.ctrl = .pacing → r.seq = q) ∧
    (r.ctrl = .sending ∨ r.ctrl = .backoff →
      r.seq = q + 1 ∧ ∃ w, r.frameBuf = some w ∧ storedSequence (frameOfWord w) = seqOut c q)

/-- The events answered OK carry the counter values from `q` on. -/
def NibblesFrom (c : Cfg) (q : Nibble) (es : List SendEvent) : Prop :=
  ∀ (k : Nat) (e : SendEvent), (sentEvents es)[k]? = some e →
    storedSequence e.data = seqOut c (q + BitVec.ofNat 4 k)

/-- The counter value after the events `es`. -/
def sequenceAfter (q : Nibble) (es : List SendEvent) : Nibble :=
  q + BitVec.ofNat 4 (sentEvents es).length

@[simp] theorem sequenceAfter_nil (q : Nibble) : sequenceAfter q [] = q := BitVec.add_zero q

theorem sequenceAfter_append (q : Nibble) (es es' : List SendEvent) :
    sequenceAfter q (es ++ es') = sequenceAfter (sequenceAfter q es) es' := by
  simp [sequenceAfter, BitVec.ofNat_add, BitVec.add_assoc]

theorem NibblesFrom.append {c : Cfg} {q : Nibble} {es es' : List SendEvent} (h : NibblesFrom c q es)
    (h' : NibblesFrom c (sequenceAfter q es) es') : NibblesFrom c q (es ++ es') := by
  intro k e hk
  rw [sentEvents_append, List.getElem?_append] at hk
  split at hk
  · exact h k e hk
  · next hge =>
    have hsplit : (sentEvents es).length + (k - (sentEvents es).length) = k := by omega
    rw [h' _ e hk, sequenceAfter, BitVec.add_assoc, ← BitVec.ofNat_add, hsplit]

/-- From `s` to `u` only events were added, those answered OK carry the counter values from `q` on, and
the next one will carry the value after them. -/
def SequenceRun (c : Cfg) (q : Nibble) (s u : State) : Prop :=
  ∃ es, u.history = s.history ++ es ∧ NibblesFrom c q es ∧ NextSequence c (sequenceAfter q es) u.regs

theorem SequenceRun.of_unchanged {c : Cfg} {q : Nibble} {s u : State} (hh : u.history = s.history)
    (hr : NextSequence c q u.regs) : SequenceRun c q s u :=
  ⟨[], by simp [hh], nofun, by simpa using hr⟩

theorem SequenceRun.trans {c : Cfg} {q : Nibble} {s u v : State} {es : List SendEvent}
    (hhist : u.history = s.history ++ es) (hes : NibblesFrom c q es)
    (h : SequenceRun c (sequenceAfter q es) u v) : SequenceRun c q s v := by
  obtain ⟨es', hhist', hes', hnext⟩ := h
  exact ⟨es ++ es', by rw [hhist', hhist, List.append_assoc], hes.append hes',
    by rwa [sequenceAfter_append]⟩

/-- An event that is not answered OK leaves the counter value where it is. -/
theorem SequenceRun.of_not_ok {c : Cfg} {q : Nibble} {s u : State} {e : SendEvent}
    (hh : u.history = s.history ++ [e]) (ha : e.answer ≠ .ok) (hr : NextSequence c q u.regs) :
    SequenceRun c q s u := by
  have hnone : sentEvents [e] = [] := by simp [sentEvents, ha]
  exact ⟨[e], hh, by simp [NibblesFrom, hnone], by simpa [sequenceAfter, hnone] using hr⟩

/-- An event answered OK that carries the counter value moves it on by one. -/
theorem SequenceRun.of_ok {c : Cfg} {q : Nibble} {s u : State} {e : SendEvent}
    (hh : u.history = s.history ++ [e]) (ha : e.answer = .ok)
    (hdata : storedSequence e.data = seqOut c q) (hr : NextSequence c (q + 1) u.regs) :
    SequenceRun c q s u := by
  have hone : sentEvents [e] = [e] := by simp [sentEvents, ha]
  refine ⟨[e], hh, fun k e' hk => ?_, by simpa [sequenceAfter, hone] using hr⟩
  rw [hone, List.getElem?_singleton] at hk
  split at hk
  · next hzero =>
    cases hk
    simpa [hzero] using hdata
  · cases hk

/-- A controller turn of a run: ITERATE takes the counter value into the frame, SEND answered OK moves
on to the next, and no other turn touches either (R124 to R133). -/
theorem NextSequence.step_controller {q : Nibble} {s t : State} {now : Timestamp} {r : SendResult}
    {rest : List Slot} (hinv : NextSequence s.cfg q s.regs)
    (hs : s.schedule = .controller now r :: rest) (h : step s = .next t) :
    SequenceRun s.cfg q s t := by
  have ⟨_, hseq, hlatch⟩ := hinv
  obtain ⟨-, -, hw⟩ := Machine.step_controller hs h
  rcases hw with ⟨hr, hh, -⟩ | ⟨hc, hh, hw⟩ | ⟨hc, ⟨w', hw', hh⟩, hw⟩ | ⟨hh, d, -, -, hw⟩
  · exact .of_unchanged hh (by rwa [hr])
  · refine .of_unchanged hh ?_
    rcases hw with ⟨-, hr⟩ | ⟨-, -, hr⟩ | ⟨-, -, e, -, hr⟩ <;> rw [hr]
    · exact ⟨nofun, nofun, nofun⟩
    · exact ⟨nofun, nofun, nofun⟩
    · have hq : s.regs.seq = q := hseq (.inl hc)
      refine ⟨nofun, nofun, fun _ => ⟨?_, _, rfl, ?_⟩⟩
      · exact (tickF_seq _ _ _ _).trans (by rw [hq])
      · rw [frameOfWord_frameWord, storedSequence_tick, hq]
  · obtain ⟨hq, w, hframe, hnibble⟩ := hlatch (.inl hc)
    obtain rfl := hw' w hframe
    rcases hw with ⟨ha, n, -, ⟨-, hr⟩ | ⟨-, d, hr⟩⟩ | ⟨ha, d, hr⟩ | ⟨e, ha, hr⟩
    · exact .of_ok hh ha hnibble (by rw [hr]; exact ⟨nofun, fun _ => hq, nofun⟩)
    · exact .of_ok hh ha hnibble (by rw [hr]; exact ⟨nofun, fun _ => hq, nofun⟩)
    · exact .of_not_ok hh (by simp [ha])
        (by rw [hr]; exact ⟨nofun, nofun, fun _ => ⟨hq, _, hframe, hnibble⟩⟩)
    · exact .of_not_ok hh (by simp [ha]) (by rw [hr]; exact ⟨nofun, nofun, nofun⟩)
  · refine .of_unchanged hh ?_
    rcases hw with ⟨hc, hr⟩ | ⟨hc, hr⟩ <;> rw [hr]
    · exact ⟨nofun, nofun, fun _ => hlatch (.inr hc)⟩
    · exact ⟨nofun, fun _ => hseq (.inr hc), nofun⟩

/-- Every step without START and reset carries a run's sequence on. -/
theorem NextSequence.step {q : Nibble} {s t : State} (hinv : NextSequence s.cfg q s.regs)
    (hkeep : ∀ slot ∈ s.schedule, slot.keepsSession = true) (h : step s = .next t) :
    SequenceRun s.cfg q s t := by
  have ⟨hmanual, _⟩ := hinv
  rcases step_keeps_or_controller hmanual
    (fun slot hm => notReset_of_keepsSession (hkeep slot hm)) (.inr hkeep) h with
    ⟨hh, hr | hr⟩ | ⟨now, r, rest, hs⟩
  · exact .of_unchanged hh (by rwa [hr])
  · exact .of_unchanged hh (by rw [hr]; exact hinv)
  · exact hinv.step_controller hs h

/-- The emitted nibble `k` values on, as a number (R104). -/
theorem seqOut_add_toNat (c : Cfg) (q : Nibble) (k : Nat) :
    (seqOut c (q + BitVec.ofNat 4 k)).toNat =
      (q.toNat + k + if c.seqEmit = .pre then 0 else 1) % 16 := by
  unfold seqOut
  cases c.seqEmit <;> simp [seqNext, BitVec.toNat_add]

/-- Settles O60, by induction over the run. -/
theorem sentSequenceNibblesAreConsecutive : Obligations.SentSequenceNibblesAreConsecutive := by
  intro n s t hc hkeep hrun k e hk
  have hstart : NextSequence s.cfg s.regs.seq s.regs := by simp [NextSequence, hc]
  obtain ⟨-, es, hhist, hes, -⟩ : t.cfg = s.cfg ∧ SequenceRun s.cfg s.regs.seq s t :=
    runs_invariant (P := fun u => u.cfg = s.cfg ∧ SequenceRun s.cfg s.regs.seq s u)
      (fun u v hu ⟨hcfg, es, hhist, hes, hnext⟩ h =>
        ⟨(step_cfg h).trans hcfg, .trans hhist hes (hcfg ▸ (hcfg ▸ hnext).step hu h)⟩)
      hkeep ⟨rfl, .of_unchanged rfl hstart⟩ hrun
  rw [hhist, List.drop_left] at hk
  rw [← highNibble_toNat, ← seqOut_add_toNat]
  exact congrArg BitVec.toNat (hes k e hk)

end Sys2Proof.Machine
end

section
/-!
SUPPORT. The statements of 60_exceptions.md: what a wait that is not over (O41) and a command answered
with an error (O45) leave unchanged.
-/

namespace Sys2Proof.Machine

/-! ### A wait before its deadline (R156) -/

/-- WAIT_EXPIRE before its deadline is not enabled, whatever CTRL is (R156). -/
theorem exec_waitExpire_of_not_due {s : State} {d : Timestamp} (hd : s.regs.deadline = some d)
    (hwait : s.now.toNat < d.toNat) : exec .waitExpire s = .next (stuck s) := by
  obtain ⟨t, ht⟩ := exec_next .waitExpire s
  have hnot : ¬ (deadlineRead s).toNat ≤ s.now.toNat := by
    rw [deadlineRead_some s d hd]
    exact Nat.not_le.mpr hwait
  rcases execWaitExpire_cases ht with ⟨-, hdue, -⟩ | ⟨-, hdue, -⟩ | ⟨-, rfl⟩
  · exact absurd hdue hnot
  · exact absurd hdue hnot
  · exact ht

/-- Settles O41: before its deadline the wait is stuck, and that writes the outcome alone. -/
theorem waitKeepsEveryRegisterUntilItsDeadline : Obligations.WaitKeepsEveryRegisterUntilItsDeadline :=
  fun _ _ _ hd hwait => exec_waitExpire_of_not_due hd hwait

/-! ### A command answered with an error (R140) -/

/-- Settles O45: no host turn writes the history, and one that writes a register answers success. -/
theorem commandErrorsLeaveNoTrace : Obligations.CommandErrorsLeaveNoTrace := by
  intro s t now p rest e hs hstep herror
  obtain ⟨-, -, hhist, ⟨hregs, -⟩ | ⟨payload, hok, -⟩⟩ := step_host hs hstep
  · exact ⟨hregs, hhist⟩
  · rw [hok] at herror
    cases herror

end Sys2Proof.Machine
end

section
/-!
SUPPORT. The statement of 70_reset_and_hazards.md: the reset signal and the internal steps after it (O46).
-/

namespace Sys2Proof.Machine

/-- Where CTRL selects no internal step (IDLE, MANUAL, DONE), none is enabled (R15 (c), R115). -/
theorem exec_internal_of_unselecting {i : Instr} {s : State} (hi : i.isInternal = true)
    (h : controllerStep s.regs.ctrl = none) : exec i s = .next (stuck s) := by
  have hne {c : Ctrl} (hc : controllerStep c ≠ none) : s.regs.ctrl ≠ c :=
    ne_of_apply_ne controllerStep (h ▸ hc.symm)
  cases i with
  | iterate => exact exec_iterate_of_ne (hne nofun)
  | send => exact exec_send_of_ne (hne nofun)
  | waitExpire => exact exec_waitExpire_of_ne (hne nofun) (hne nofun)
  | encode | decode | tick | start | cancel | read => cases hi

/-- Settles O46: the reset signal leaves CTRL in IDLE, where every internal step is stuck. -/
theorem resetSignalRestoresEveryRegister : Obligations.ResetSignalRestoresEveryRegister := by
  intro s rest hs
  obtain ⟨t, ht⟩ := step_next s
  obtain rfl := step_reset hs ht
  exact ⟨_, ht, rfl, fun i hi => ⟨_, exec_internal_of_unselecting hi rfl, rfl, rfl⟩⟩

end Sys2Proof.Machine
end

section
/-!
SUPPORT. The decoder against the rows of spec/opcode_table.json (O5): a row's words are the words of the
instructions that carry its mnemonic.
-/

namespace Sys2Proof.Machine

/-! ### The words of a row -/

/-- Every instruction's word belongs to the row of its mnemonic, and to no other. -/
theorem tableRow_statement (i : Instr) : Laws.TableRow.Statement i := by
  cases i with
  | encode smp => exact Laws.TableRow.encode smp
  | decode f => exact Laws.TableRow.decode f
  | tick => exact Laws.TableRow.tick
  | start run => exact Laws.TableRow.start run
  | cancel => exact Laws.TableRow.cancel
  | read reg => exact Laws.TableRow.read reg
  | iterate => exact Laws.TableRow.iterate
  | send => exact Laws.TableRow.send
  | waitExpire => exact Laws.TableRow.waitExpire

/-- The table names every instruction. -/
theorem exists_row_mnemonicOf (i : Instr) : ∃ r ∈ opcodeTable, r.mnemonic = mnemonicOf i := by
  cases i <;> simp [opcodeTable, mnemonicOf]

/-- A row whose mask is full has one word. -/
theorem eq_of_matchesWord_fullMask {m : String} {pat w : CommandWord}
    (h : OpcodeRow.matchesWord ⟨m, pat, 0xFF⟩ w = true) : w = pat :=
  calc w = w &&& BitVec.allOnes 8 := BitVec.and_allOnes.symm
    _ = pat := eq_of_beq h

/-- START's row leaves bit 4, its operand, out of the mask (R67). -/
theorem eq_encodeWord_start_of_matchesWord {m : String} {w : CommandWord}
    (h : OpcodeRow.matchesWord ⟨m, 0x04, 0xEF⟩ w = true) :
    w = encodeWord (.start (CommandWord.runBit w)) := by
  have hmask : w &&& 0xEF = 0x04 := eq_of_beq h
  calc w = w &&& (0xEF ||| BitVec.twoPow 8 4) := (BitVec.and_allOnes (x := w)).symm
    _ = 0x04 ||| if CommandWord.runBit w then BitVec.twoPow 8 4 else 0 := by
      rw [BitVec.and_or_distrib_left, hmask, BitVec.and_twoPow]; rfl
    _ = encodeWord (.start (CommandWord.runBit w)) := by cases CommandWord.runBit w <;> rfl

/-- A word of a row decodes to the row's instruction, with the operand beside the word. -/
theorem decodes_of_matchesWord {p : PortWord} {r : OpcodeRow} (hr : r ∈ opcodeTable)
    (h : r.matchesWord p.word = true) : ∃ i, decode p = .ok i := by
  simp only [opcodeTable, List.mem_cons, List.not_mem_nil, or_false] at hr
  obtain rfl | rfl | rfl | rfl | rfl | rfl | rfl | rfl | rfl := hr
  · exact ⟨.encode p.sample, decode_of_word (eq_of_matchesWord_fullMask h) rfl⟩
  · exact ⟨.decode p.frame, decode_of_word (eq_of_matchesWord_fullMask h) rfl⟩
  · exact ⟨.tick, decode_of_word (eq_of_matchesWord_fullMask h) trivial⟩
  · exact ⟨.start _, decode_of_word (eq_encodeWord_start_of_matchesWord h) trivial⟩
  · exact ⟨.cancel, decode_of_word (eq_of_matchesWord_fullMask h) trivial⟩
  · exact ⟨.read p.reg.toNat, decode_of_word (eq_of_matchesWord_fullMask h) rfl⟩
  · exact ⟨.iterate, decode_of_word (eq_of_matchesWord_fullMask h) trivial⟩
  · exact ⟨.send, decode_of_word (eq_of_matchesWord_fullMask h) trivial⟩
  · exact ⟨.waitExpire, decode_of_word (eq_of_matchesWord_fullMask h) trivial⟩

/-- Settles O5: what decodes is its instruction's word, and a row's word is an instruction's. -/
theorem decoderAgreesWithTheOpcodeTable : Obligations.DecoderAgreesWithTheOpcodeTable := by
  refine fun p => ⟨fun i hi => ?_, fun ⟨r, hr, hmatch⟩ => decodes_of_matchesWord hr hmatch⟩
  obtain ⟨hword, -⟩ := word_of_decode hi
  obtain ⟨r, hr, hname⟩ := exists_row_mnemonicOf i
  refine ⟨r, hr, ?_, hname⟩
  rw [hword, ← encode_word]
  exact (tableRow_statement i r hr).mpr hname

end Sys2Proof.Machine
end
